-- ==== Sys2Proof/Word.lean ====
section
/-!
DEFINITION. The word types of FPX-CORE (spec/00_scope.md R6, R7). Every value is an unsigned bit vector, bit 0 the
least significant bit.
-/
namespace Sys2Proof

/-- A host-visible register, a command word: 32 bits (spec/10_state.md R21). -/
abbrev Word := BitVec 32

/-- A buffer byte, a bus byte, a packet byte (spec/20_memory.md R80). -/
abbrev Byte := BitVec 8

/-- A tick count, a duration, a period, a ring entry: u16 (spec/10_state.md R31, R38, R39). -/
abbrev Tick := BitVec 16

/-- One reading of the channel: u10, 0 to 1023 (spec/00_scope.md R6 SAMPLE_BITS). -/
abbrev Sample := BitVec 10

/-- A 7-bit bus target address (spec/20_memory.md R71). -/
abbrev BusAddr := BitVec 7

end Sys2Proof
end

