-- ==== Sys2Proof/Config.lean ====
section
/-!
DEFINITION. The implementation parameters of spec/00_scope.md R6, as one configuration record whose defaults are the
values of the reference configuration, and the one open parameter of the environment (spec/92_eei_decisions.md D16).
-/
namespace Sys2Proof

/-- The constants of spec/00_scope.md R6, each under the identifier the rules use. The widths `tickBits` and
`sampleBits` are those of `Tick` and `Sample`, `ringCap` that of the ring's vector (log entry 11). -/
structure Params where
  tickBits : Nat := 16
  sampleBits : Nat := 10
  blockSize : Nat := 1000
  p2pMin : Nat := 100
  ldLowPct : Nat := 30
  ldHighPct : Nat := 70
  pktLen : Nat := 4
  ringCap : Nat := 32
  frWin : Nat := 8
  frLowPct : Nat := 35
  frHighPct : Nat := 65
  frDepthMin : Nat := 20
  crcPoly : BitVec 16 := 0x1021
  crcInit : BitVec 16 := 0x0000
  /-- volts × 20 (spec/30_encoding.md R122) -/
  vtable : List (BitVec 9) := [100, 180, 240, 300, 400]
  iMin : Nat := 1
  iMax : Nat := 15
  /-- microseconds, approximate; timing only, no rule reads it -/
  tickPeriod : Nat := 100
  bufLen : Nat := 256
deriving DecidableEq, Repr

/-- "`RING_CAP = 8 × PKT_LEN` is an invariant of the configuration, not a free choice" (spec/00_scope.md R6). -/
abbrev Params.consistent (p : Params) : Prop := p.ringCap = 8 * p.pktLen

/-- The reference configuration, the one this machine is built with. -/
abbrev params : Params := {}

/-- `CELL_PHASE` (spec/92_eei_decisions.md D16): on which edge the transmitter begins a bit's cell. A parameter of the
ENVIRONMENT; no rule of the block reads it (spec/70_reset_and_hazards.md R314). -/
inductive CellPhase where
  /-- a cell starts at a bright-to-dark edge, dark half first -/
  | darkFirst
  /-- a cell starts at a dark-to-bright edge, bright half first -/
  | brightFirst
deriving DecidableEq, Repr

end Sys2Proof
end

