-- ==== Sys2Proof/Syntax.lean ====
section
/-!
DEFINITION. The nine operations of FPX-CORE, one constructor per row of spec/opcode_table.json
(spec/30_encoding.md R101 to R105; R118: "the nine operations of rule R101 are the whole command set").
-/
namespace Sys2Proof

/-- An operation with its operand fields, each an unsigned integer taken as it stands (spec/30_encoding.md R105). -/
inductive Instr where
  /-- WAIT_TICK (spec/40_tick_sample.md R140), format N -/
  | waitTick
  /-- SAMPLE (spec/40_tick_sample.md R142), format N -/
  | sample
  /-- NEXT_EDGE (spec/41_level_detector.md R150), format N -/
  | nextEdge
  /-- FULL_PERIOD (spec/42_period_measurer.md R170), format N -/
  | fullPeriod
  /-- READ_PACKET (spec/43_framer.md R175), format N -/
  | readPacket
  /-- DECODE (spec/44_config_decoder.md R200), format N; its operand is the PKT register -/
  | decode
  /-- DECODE_CONFIG (spec/44_config_decoder.md R206), format N -/
  | decodeConfig
  /-- BUS_XACT (spec/45_bus_engine.md R221), format T: target address, bytes to write, bytes to read -/
  | busXact (addr : BusAddr) (wlen rlen : Byte)
  /-- REG_WRITE (spec/45_bus_engine.md R235), format W: target address, register byte, value byte -/
  | regWrite (addr : BusAddr) (reg val : Byte)
deriving DecidableEq, Repr

end Sys2Proof
end

