-- ==== Sys2Proof/WellFormed.lean ====
section
/-!
DEFINITION. Which terms of `Instr` are commands the block accepts. The operand fields cannot be out of range (their
types are the fields' widths), so the one check is that of spec/30_encoding.md R113.
-/
namespace Sys2Proof

/-- A BUS_XACT with `WLEN = 0` and `RLEN = 0` is no transaction and is refused (spec/30_encoding.md R113); every other
operation is accepted whatever its operands. -/
def Instr.wellFormed : Instr → Bool
  | .waitTick => true
  | .sample => true
  | .nextEdge => true
  | .fullPeriod => true
  | .readPacket => true
  | .decode => true
  | .decodeConfig => true
  | .busXact _ wlen rlen => !(wlen == 0 && rlen == 0)
  | .regWrite _ _ _ => true

/-- The receiver's operations: those that wait on the Tick or Sample port, and DECODE
(spec/00_scope.md R6 glossary "Receiver"). -/
def Instr.isReceiver : Instr → Bool
  | .waitTick => true
  | .sample => true
  | .nextEdge => true
  | .fullPeriod => true
  | .readPacket => true
  | .decode => true
  | .decodeConfig => true
  | .busXact _ _ _ => false
  | .regWrite _ _ _ => false

end Sys2Proof
end

