-- ==== Sys2Proof/Decode.lean ====
section
/-!
DEFINITION. Decoding and encoding of command words (spec/30_encoding.md R100 to R115). One 32-bit word, one length, no
prefix; the decoder is total and names why it refuses a word. The constraint of R113 (both lengths 0) is
`Instr.wellFormed`, checked where a command is accepted.
-/
namespace Sys2Proof

/-- Why a word matches no row of the opcode table. -/
inductive DecodeError where
  /-- opcode 0x0 or 0xA to 0xF (spec/30_encoding.md R110) -/
  | reservedOpcode
  /-- a defined opcode with a reserved bit that is not 0 (spec/30_encoding.md R111) -/
  | reservedBits
deriving DecidableEq, Repr

/-- Bits 31:28, the opcode `OP` (R100). -/
def opField (w : Word) : BitVec 4 := w.extractLsb' 28 4
/-- Bits 27:0, reserved in format N (R102). -/
def lowField (w : Word) : BitVec 28 := w.extractLsb' 0 28
/-- Bit 27, reserved in formats T and W (R103, R104). -/
def bit27Field (w : Word) : BitVec 1 := w.extractLsb' 27 1
/-- Bits 26:20, `ADDR` (R103, R104). -/
def addrField (w : Word) : BusAddr := w.extractLsb' 20 7
/-- Bits 19:16, reserved in formats T and W (R103, R104). -/
def bits19Field (w : Word) : BitVec 4 := w.extractLsb' 16 4
/-- Bits 15:8, `WLEN` (R103) or `REG` (R104). -/
def highByteField (w : Word) : Byte := w.extractLsb' 8 8
/-- Bits 7:0, `RLEN` (R103) or `VAL` (R104). -/
def lowByteField (w : Word) : Byte := w.extractLsb' 0 8

/-- Format N: bits 27:0 must be 0 (R102, R111). -/
def formatN (w : Word) (i : Instr) : Except DecodeError Instr :=
  if lowField w = 0 then .ok i else .error .reservedBits

/-- Formats T and W: bit 27 and bits 19:16 must be 0 (R103, R104, R111). -/
def formatTW (w : Word) (i : BusAddr → Byte → Byte → Instr) : Except DecodeError Instr :=
  if bit27Field w = 0 ∧ bits19Field w = 0 then .ok (i (addrField w) (highByteField w) (lowByteField w))
  else .error .reservedBits

/-- The decoder (R100, R101): the opcode nibble names the row, the row's format its reserved bits. -/
def decode (w : Word) : Except DecodeError Instr :=
  match (opField w).toNat with
  | 1 => formatN w .waitTick
  | 2 => formatN w .sample
  | 3 => formatN w .nextEdge
  | 4 => formatN w .fullPeriod
  | 5 => formatN w .readPacket
  | 6 => formatN w .decode
  | 7 => formatN w .decodeConfig
  | 8 => formatTW w .busXact
  | 9 => formatTW w .regWrite
  | _ => .error .reservedOpcode

/-- A format N word: opcode and 28 zero bits (R102). -/
def encodeN (op : BitVec 4) : Word := op ++ (0 : BitVec 28)

/-- A format T or W word: opcode, 0, address, 0000, two bytes (R103, R104). -/
def encodeTW (op : BitVec 4) (addr : BusAddr) (hi lo : Byte) : Word :=
  op ++ (0 : BitVec 1) ++ addr ++ (0 : BitVec 4) ++ hi ++ lo

/-- The encoder: the command word of an operation (R101 to R104). -/
def encode : Instr → Word
  | .waitTick => encodeN 1
  | .sample => encodeN 2
  | .nextEdge => encodeN 3
  | .fullPeriod => encodeN 4
  | .readPacket => encodeN 5
  | .decode => encodeN 6
  | .decodeConfig => encodeN 7
  | .busXact addr wlen rlen => encodeTW 8 addr wlen rlen
  | .regWrite addr reg val => encodeTW 9 addr reg val

/-- The low `nbits` bits of `w` as a command word, every higher bit 0. A command word is one 32-bit register value: no
byte order is involved (spec/20_memory.md R75). -/
def tableWord (nbits w : Nat) : Word := BitVec.ofNat 32 (w % 2 ^ nbits)

/-- What the decoder reads from a word of the opcode table. -/
def decodeTableWord (nbits w : Nat) : Option Instr :=
  match decode (tableWord nbits w) with
  | .ok i => some i
  | .error _ => none

end Sys2Proof
end

