-- ==== Sys2Proof/Machine/State.lean ====
section
/-!
DEFINITION. The state of FPX-CORE (spec/10_state.md R20 to R67) as plain data, the three environment ports and the Host
port as the model holds them, the reasons a step can stop, and the machine right after reset.
-/
namespace Sys2Proof.Machine

/-- FPX-CORE has no fault: "There is no trap mechanism"; every abnormal condition is discarded inside an operation or
ends it with a failure RESULT (spec/60_exceptions.md R260 to R263), and an access outside a space reads 0 or is ignored
(spec/20_memory.md R70). So the type has no constructor and nothing raises one (safe). -/
inductive Fault where
deriving DecidableEq, Repr

/-- The reasons a step can be refused. -/
inductive Refusal where
  /-- `exec`'s arm of an instruction that has no meaning yet; no arm of this model raises it (safe). A command the
  BLOCK refuses (spec/30_encoding.md R112) is not this: it is a next state with `CMD_ERR = 1`. -/
  | notModelled (mnemonic : String)
deriving DecidableEq, Repr

/-- Bytes by index, in one canonical form: indices strictly rising, no entry equal to what an unlisted index reads. -/
abbrev Memory := List Host.Cell

/-- `RX_STATE` (spec/10_state.md R50): where the receiver is suspended. -/
inductive RxState where
  | idle
  | waitTick
  | waitAdc
deriving DecidableEq, Repr

/-- `BME_STATE` (spec/10_state.md R50): the states of the Bus Master Engine. -/
inductive BmeState where
  | idle
  | addrW
  | wrByte
  | addrR
  | rdByte
  | stop
deriving DecidableEq, Repr

/-- One port command of the Bus port (spec/45_bus_engine.md R218). -/
inductive BusCmd where
  /-- `P_ADDR(byte)` -/
  | pAddr (byte : Byte)
  /-- `P_WDATA(byte)` -/
  | pWdata (byte : Byte)
  /-- `P_RXNEXT(a)`: `false` is 0 = ACK, `true` is 1 = NACK -/
  | pRxnext (nack : Bool)
  /-- `P_STOP` -/
  | pStop
  /-- `P_CLRERR` -/
  | pClrerr
deriving DecidableEq, Repr

/-- The inputs of the Bus port, read all in one sample (spec/45_bus_engine.md R217). -/
structure BusSample where
  wif : Bool
  rif : Bool
  arblost : Bool
  buserr : Bool
  /-- 0 (`false`) = ACK, 1 (`true`) = NACK -/
  rxack : Bool
  rdata : Byte
deriving DecidableEq, Repr

/-- The host-visible address spaces (spec/20_memory.md R70). -/
inductive Space where
  | reg
  | wbuf
  | rbuf
  | ring
deriving DecidableEq, Repr

/-- One thing the outside world does (spec/10_state.md R65). The model's own type (log entry 1). -/
inductive Input where
  /-- the timer overflows: `TOV` becomes 1; if it is 1 already the overflow is lost (spec/40_tick_sample.md R141) -/
  | timerOverflow
  /-- the converter completes with a reading: `ADC_DONE = 1` and `ADC_DATA` (spec/40_tick_sample.md R142) -/
  | conversionDone (data : Sample)
  /-- the bus peripheral shows these values on the Bus port -/
  | busSample (st : BusSample)
  /-- a host read of one element -/
  | hostRead (sp : Space) (index : Nat)
  /-- a host write of one element; a write of `x[8]` presents a command (spec/10_state.md R30) -/
  | hostWrite (sp : Space) (index : Nat) (value : Word)
  /-- the reset input `rst` takes this level (spec/70_reset_and_hazards.md R300) -/
  | rst (level : Bool)
deriving DecidableEq, Repr

/-- One thing the block shows on its ports (spec/10_state.md R65). The model's own type (log entry 2). -/
inductive PortOut where
  /-- pulse on `tov_clr` -/
  | tovClr
  /-- pulse on `adc_start` -/
  | adcStart
  /-- a command on the Bus port -/
  | bus (cmd : BusCmd)
  /-- the value a host read returned -/
  | hostData (value : Word)
deriving DecidableEq, Repr

/-- The receiver state, spec/10_state.md R31 to R40. -/
structure Receiver where
  /-- `TICK` (R31) -/
  tick : Tick
  /-- `CAL_MIN` (R32) -/
  calMin : Sample
  /-- `CAL_MAX` (R33) -/
  calMax : Sample
  /-- `CAL_POS` (R34), in [0, 999] -/
  calPos : BitVec 10
  /-- `THR_LOW` (R35) -/
  thrLow : Sample
  /-- `THR_HIGH` (R35) -/
  thrHigh : Sample
  /-- `CAL_P2P` (R36) -/
  calP2p : Sample
  /-- `LEVEL` (R37): `true` is 1, bright -/
  level : Bool
  /-- `LAST_FLIP` (R38) -/
  lastFlip : Tick
  /-- `RING` (R39) -/
  ring : Vector Tick 32
  /-- `CUR` (R40) -/
  cur : BitVec 5
deriving DecidableEq, Repr

/-- The Configuration Record `CFG` (spec/10_state.md R25). -/
structure CfgRecord where
  /-- `V1`, bits 8:0 -/
  v1 : BitVec 9
  /-- `I1`, bits 12:9 -/
  i1 : BitVec 4
  /-- `V2`, bits 21:13 -/
  v2 : BitVec 9
  /-- `I2`, bits 25:22 -/
  i2 : BitVec 4
  /-- `REQ_PD`, bit 26 -/
  reqPd : Bool
deriving DecidableEq, Repr

/-- The stored flags of `STATUS` (spec/10_state.md R60 to R63); `LEVEL` is in `Receiver`, `DET_EN` is a view. -/
structure Flags where
  /-- `BUSY` (R60) -/
  busy : Bool
  /-- `BUS_OK` (R61) -/
  busOk : Bool
  /-- `CMD_ERR` (R62) -/
  cmdErr : Bool
  /-- `CFG_VALID` (R63) -/
  cfgValid : Bool
deriving DecidableEq, Repr

/-- The sequencing state (spec/10_state.md R50). -/
structure Sequencing where
  /-- `OPR`: none, or the operation the host started, with its operand fields (log entry 7) -/
  opr : Option Instr
  /-- `RX_STATE` -/
  rxState : RxState
  /-- `EDGE_NO`: which of FULL_PERIOD's two NEXT_EDGE calls is running -/
  edgeNo : BitVec 1
  /-- `D1`: the first half-period -/
  d1 : Tick
  /-- `BME_STATE` -/
  bmeState : BmeState
  /-- `BIDX`: index of the byte in flight -/
  bidx : Byte
  /-- `XADDR` -/
  xaddr : BusAddr
  /-- `XWLEN` -/
  xwlen : Byte
  /-- `XRLEN` -/
  xrlen : Byte
  /-- `XOK`: the outcome so far of the read phase -/
  xok : Bool
deriving DecidableEq, Repr

/-- The input signals of the ports as they stand now (spec/10_state.md R64, R65, R66). Not state of the block: the
environment owns them (log entry 3). -/
structure Ports where
  /-- the reset input -/
  rst : Bool
  /-- `TOV` -/
  tov : Bool
  /-- `ADC_DONE` -/
  adcDone : Bool
  /-- `ADC_DATA` -/
  adcData : Sample
  /-- the Bus port's inputs -/
  bus : BusSample
deriving DecidableEq, Repr

/-- Everything: the block's state (`rx` to `flags`, spec/10_state.md R20), the ports' input signals, what the outside
world does next (`inbox`, its head first), and what the block has shown on its ports so far (`trace`, oldest first). -/
structure State where
  /-- receiver state (R31 to R40) -/
  rx : Receiver
  /-- `RES`, `x[1]` (R23) -/
  res : BitVec 16
  /-- `PKT`, `x[2]` (R24) -/
  pkt : Word
  /-- `CFG`, `x[3]` (R25) -/
  cfg : CfgRecord
  /-- `CMD`, `x[8]` (R30) -/
  cmd : Word
  /-- `WBUF` (R42) -/
  wbuf : Memory
  /-- `RBUF` (R42) -/
  rbuf : Memory
  /-- sequencing state (R50) -/
  seq : Sequencing
  /-- status flags (R60 to R63) -/
  flags : Flags
  /-- the environment's signals (R64 to R66) -/
  ports : Ports
  /-- the model's own: inputs still to come -/
  inbox : List Input
  /-- the model's own: outputs so far -/
  trace : List PortOut
deriving DecidableEq, Repr

/-- Receiver state after reset (spec/10_state.md R67). -/
def Receiver.reset : Receiver where
  tick := 0
  calMin := 1023
  calMax := 0
  calPos := 0
  thrLow := 0
  thrHigh := 1023
  calP2p := 0
  level := false
  lastFlip := 0
  ring := Vector.replicate 32 0
  cur := 0

/-- `CFG` after reset: 0, not a legal record (spec/10_state.md R25). -/
def CfgRecord.reset : CfgRecord where
  v1 := 0
  i1 := 0
  v2 := 0
  i2 := 0
  reqPd := false

/-- Flags after reset (spec/10_state.md R67). -/
def Flags.reset : Flags where
  busy := false
  busOk := false
  cmdErr := false
  cfgValid := false

/-- Sequencing state after reset (spec/10_state.md R67). `edgeNo`, `d1`, `bidx`, `xaddr`, `xwlen`, `xrlen` and `xok` are
unspecified there; their zeros are DESIGN CHOICE, unsafe (log entry 4). -/
def Sequencing.reset : Sequencing where
  opr := none
  rxState := .idle
  edgeNo := 0
  d1 := 0
  bmeState := .idle
  bidx := 0
  xaddr := 0
  xwlen := 0
  xrlen := 0
  xok := false

/-- A Bus port on which the peripheral shows nothing. -/
def BusSample.quiet : BusSample where
  wif := false
  rif := false
  arblost := false
  buserr := false
  rxack := false
  rdata := 0

/-- The ports' signals in `State.reset`. The environment's, without a reset value in the spec (spec/10_state.md R66);
all low is DESIGN CHOICE, unsafe (log entry 3). -/
def Ports.quiet : Ports where
  rst := false
  tov := false
  adcDone := false
  adcData := 0
  bus := .quiet

/-- The machine right after reset (spec/10_state.md R67, spec/70_reset_and_hazards.md R300), no input pending and
nothing shown on the ports yet. -/
def State.reset : State where
  rx := .reset
  res := 0
  pkt := 0
  cfg := .reset
  cmd := 0
  wbuf := []
  rbuf := []
  seq := .reset
  flags := .reset
  ports := .quiet
  inbox := []
  trace := []

end Sys2Proof.Machine
end

