-- ==== Sys2Proof/Machine/Ops.lean ====
section
/-!
DEFINITION. The named operations over memories, the ring, the ports and the sequencing state: every meaning is written
over these.

There is no exception to take and none to return from: "There is no trap mechanism: no vector, no handler, no saved
state, no cause register, no return instruction" (spec/60_exceptions.md R260). What stands in their place is here once:
refusing a command (`refuseCommand`), ending an operation (`finish`), failing a bus transaction (`finishBus false`,
spec/60_exceptions.md R267) and reset (`blockReset`).
-/
namespace Sys2Proof.Machine

/-! ### Buffers (spec/20_memory.md R70, R74) -/

/-- What an unlisted index of `WBUF` or `RBUF` reads as: 0, the reset value of every buffer byte
(spec/10_state.md R42, R67). -/
def Memory.unlisted : Byte := 0

/-- The byte at an index. -/
def Memory.read : Memory → Nat → Byte
  | [], _ => Memory.unlisted
  | (a, v) :: m, x => if x = a then v else Memory.read m x

/-- Store a byte, keeping the canonical form: storing what an unlisted index reads removes the entry. -/
def Memory.write : Memory → Nat → Byte → Memory
  | [], x, v => if v = Memory.unlisted then [] else [(x, v)]
  | (a, u) :: m, x, v =>
    if x < a then
      if v = Memory.unlisted then (a, u) :: m else (x, v) :: (a, u) :: m
    else if x = a then
      if v = Memory.unlisted then m else (x, v) :: m
    else (a, u) :: Memory.write m x v

/-- The canonical form: indices strictly rising, no entry equal to what an unlisted index reads. -/
abbrev Memory.wf (m : Memory) : Prop :=
  m.Pairwise (fun c d => c.1 < d.1) ∧ ∀ c ∈ m, c.2 ≠ Memory.unlisted

/-- Every entry lies inside a buffer of `BUF_LEN` bytes. -/
abbrev Memory.within (m : Memory) : Prop := ∀ c ∈ m, c.1 < params.bufLen

/-! ### The ring (spec/20_memory.md R73): every access is `RING[(CUR + k) mod RING_CAP]`, so the index is a `BitVec 5` -/

/-- `RING[i]`. -/
def ringGet (r : Vector Tick 32) (i : BitVec 5) : Tick := r.get i.toFin

/-- `RING[i] <- v`. -/
def ringSet (r : Vector Tick 32) (i : BitVec 5) (v : Tick) : Vector Tick 32 := r.set i.toFin v

/-! ### Ports -/

/-- Show something on a port. -/
def emit (o : PortOut) (s : State) : State := { s with trace := s.trace ++ [o] }

/-- What a port command does to the Bus port's flags (spec/45_bus_engine.md R219): every port command makes `WIF` and
`RIF` 0, `P_CLRERR` makes `ARBLOST` and `BUSERR` 0. That `P_CLRERR` clears `WIF` and `RIF` too is
spec/20_memory.md R81 and spec/60_exceptions.md R265; DEDUCED (log entry 8). -/
def clearedBy (c : BusCmd) (st : BusSample) : BusSample :=
  match c with
  | .pClrerr => { st with wif := false, rif := false, arblost := false, buserr := false }
  | .pAddr _ => { st with wif := false, rif := false }
  | .pWdata _ => { st with wif := false, rif := false }
  | .pRxnext _ => { st with wif := false, rif := false }
  | .pStop => { st with wif := false, rif := false }

/-- `port X` (spec/45_bus_engine.md R218): put one command on the Bus port. -/
def port (c : BusCmd) (s : State) : State :=
  emit (.bus c) { s with ports.bus := clearedBy c s.ports.bus }

/-! ### Accepting, refusing and ending commands -/

/-- A command is accepted: `BUSY <- 1`, `CMD_ERR <- 0`, the operation and its operand fields are latched
(spec/30_encoding.md R100, spec/10_state.md R60). -/
def accept (i : Instr) (s : State) : State :=
  { s with flags.busy := true, flags.cmdErr := false, seq.opr := some i }

/-- A command is refused: `CMD_ERR <- 1`, nothing else changes (spec/30_encoding.md R112). -/
def refuseCommand (s : State) : State := { s with flags.cmdErr := true }

/-- The operation's `return`: `BUSY <- 0` and the sequencing state is that between operations
(spec/10_state.md R50, R60). -/
def finish (s : State) : State :=
  { s with flags.busy := false, seq.opr := none, seq.rxState := .idle, seq.bmeState := .idle }

/-- The `return` of BUS_XACT and REG_WRITE: `BME_STATE <- IDLE; BUS_OK <- ok; return` (spec/45_bus_engine.md R221). -/
def finishBus (ok : Bool) (s : State) : State := finish { s with flags.busOk := ok }

/-- One step of operation `i` (spec/00_scope.md R9). On an idle block: the command is accepted and runs from `begin`, or
is refused when it is no well-formed command (spec/30_encoding.md R100, R113). On a block that is running `i`: it goes
on from where it is suspended. On a block that is running another operation nothing happens: a command to a busy block
is ignored (spec/10_state.md R30). `advance` runs the operation past every wait whose condition holds already. -/
def runOperation (i : Instr) (begin advance : State → State) (s : State) : State :=
  if s.flags.busy then
    if s.seq.opr = some i then advance s else s
  else if i.wellFormed then advance (begin (accept i s)) else refuseCommand s

/-! ### The receiver's two waits (spec/40_tick_sample.md) -/

/-- Come to the wait of WAIT_TICK: `RX_STATE <- RX_WAIT_TICK` (R140). -/
def awaitTick (s : State) : State := { s with seq.rxState := .waitTick }

/-- Consume the pending tick: `pulse tov_clr`, `TICK <- TICK + 1` modulo 65536, `RX_STATE <- RX_IDLE` (R140). -/
def consumeTick (s : State) : State :=
  emit .tovClr { s with rx.tick := s.rx.tick + 1, ports.tov := false, seq.rxState := .idle }

/-- Start a conversion and come to its wait: `pulse adc_start`, `RX_STATE <- RX_WAIT_ADC` (R142). -/
def startConversion (s : State) : State := emit .adcStart { s with seq.rxState := .waitAdc }

/-- Take the reading: clear `ADC_DONE`, `RX_STATE <- RX_IDLE` (R142). -/
def takeReading (s : State) : State := { s with ports.adcDone := false, seq.rxState := .idle }

/-- If the receiver's wait is over, go on from it: with `onTick` after a consumed tick, with `onReading` after a reading. -/
def rxAdvance (onTick : State → State) (onReading : Sample → State → State) (s : State) : State :=
  match s.seq.rxState with
  | .idle => s
  | .waitTick => if s.ports.tov then onTick (consumeTick s) else s
  | .waitAdc => if s.ports.adcDone then onReading s.ports.adcData (takeReading s) else s

/-- Run the receiver up to a wait that is not over. A flag that is up already when the block comes to wait for it "is
then seen at once" (spec/60_exceptions.md R265, spec/40_tick_sample.md R140): no suspension. Two waits are enough, since
going on from a wait clears the flag it waited for (log entry 5). -/
def rxRun (onTick : State → State) (onReading : Sample → State → State) (s : State) : State :=
  rxAdvance onTick onReading (rxAdvance onTick onReading s)

/-! ### Reset -/

/-- Reset of the block: every element of its state has the value of spec/10_state.md R67; an operation in progress is
abandoned with no port command (spec/70_reset_and_hazards.md R300, R302). The environment's signals, its inputs to come
and what was shown on the ports before are not the block's and stay. -/
def blockReset (s : State) : State :=
  { State.reset with ports := s.ports, inbox := s.inbox, trace := s.trace }

end Sys2Proof.Machine
end

