-- ==== Sys2Proof/Machine/Operands.lean ====
section
/-!
DEFINITION. What the operations compute from their operands: the duration, the percentage thresholds, the address byte,
the packet's fields, bit reversal, the checksum and the voltage table (spec/30_encoding.md R119 to R125).
-/
namespace Sys2Proof.Machine

/-- `dur(now, then) = (now − then) mod 65536` (spec/41_level_detector.md R157, spec/90_conflicts.md C1). -/
def duration (now before : Tick) : Tick := now - before

/-- `base + floor(pct · span / 100)` over the integers (spec/41_level_detector.md R155, spec/43_framer.md R177). -/
def percentAbove (base span pct : Nat) : Nat := base + pct * span / 100

/-! ### The address byte and the port signals -/

/-- `ABYTE = (ADDR, RW)`, `RW = 0` for the write phase and 1 for the read phase (spec/30_encoding.md R125). -/
def addressByte (addr : BusAddr) (read : Bool) : Byte := addr ++ BitVec.ofBool read

/-- `p_cmd` of a port command (spec/45_bus_engine.md R218); code 0 is no command, 6 and 7 are never issued. -/
def BusCmd.code : BusCmd → BitVec 3
  | .pAddr _ => 1
  | .pWdata _ => 2
  | .pRxnext _ => 3
  | .pStop => 4
  | .pClrerr => 5

/-- `p_data` of a port command, where it has one (spec/45_bus_engine.md R218). -/
def BusCmd.data : BusCmd → Option Byte
  | .pAddr b => some b
  | .pWdata b => some b
  | .pRxnext _ => none
  | .pStop => none
  | .pClrerr => none

/-- `p_ack` of a port command, where it has one: 0 = ACK, 1 = NACK (spec/45_bus_engine.md R218). -/
def BusCmd.ack : BusCmd → Option (BitVec 1)
  | .pAddr _ => none
  | .pWdata _ => none
  | .pRxnext nack => some (BitVec.ofBool nack)
  | .pStop => none
  | .pClrerr => none

/-- Output on the Bus port, as opposed to the other ports. -/
def PortOut.busCmd? : PortOut → Option BusCmd
  | .tovClr => none
  | .adcStart => none
  | .bus c => some c
  | .hostData _ => none

/-! ### Bytes, bits and the checksum -/

/-- `bitrev8(b)`: the byte whose bit `i` is bit `7 − i` of `b` (spec/43_framer.md R186). -/
def bitrev8 (b : Byte) : Byte :=
  b.extractLsb' 0 1 ++ b.extractLsb' 1 1 ++ b.extractLsb' 2 1 ++ b.extractLsb' 3 1 ++
  b.extractLsb' 4 1 ++ b.extractLsb' 5 1 ++ b.extractLsb' 6 1 ++ b.extractLsb' 7 1

/-- One shift of the CRC register (spec/43_framer.md R185). -/
def crcShift (crc : BitVec 16) : BitVec 16 :=
  if crc.msb then (crc <<< 1) ^^^ params.crcPoly else crc <<< 1

/-- `n` shifts of the CRC register. -/
def crcShifts : Nat → BitVec 16 → BitVec 16
  | 0, crc => crc
  | n + 1, crc => crcShifts n (crcShift crc)

/-- One byte into the CRC register: XOR into the high byte, then eight shifts (spec/43_framer.md R185). -/
def crcByte (crc : BitVec 16) (b : Byte) : BitVec 16 := crcShifts 8 (crc ^^^ (b ++ (0 : Byte)))

/-- `crc16(bytes)`: CRC16-XMODEM (spec/43_framer.md R185). -/
def crc16 (bytes : List Byte) : BitVec 16 := bytes.foldl crcByte params.crcInit

/-- The trailer of a packet matches its payload: the CRC's high byte is the bit reversal of byte 2, its low byte that of
byte 3 (spec/43_framer.md R183). -/
def crcMatches (b0 b1 b2 b3 : Byte) : Bool :=
  (crc16 [b0, b1]).extractLsb' 8 8 == bitrev8 b2 && (crc16 [b0, b1]).extractLsb' 0 8 == bitrev8 b3

/-- A packet as `PKT` holds it: byte 0 in bits 31:24 (spec/10_state.md R24). -/
def packetWord (b0 b1 b2 b3 : Byte) : Word := b0 ++ b1 ++ b2 ++ b3

/-- The packet that carries a payload: its two bytes and the bit-reversed CRC, high byte first
(spec/20_memory.md R77, spec/30_encoding.md R120). -/
def packetOf (b0 b1 : Byte) : Word :=
  packetWord b0 b1 (bitrev8 ((crc16 [b0, b1]).extractLsb' 8 8)) (bitrev8 ((crc16 [b0, b1]).extractLsb' 0 8))

/-! ### The packet's fields (spec/30_encoding.md R120) -/

/-- Byte 0 bit 7, reserved. -/
def pktReserved (p : Word) : BitVec 1 := p.extractLsb' 31 1
/-- `V1IDX`, byte 0 bits 6:4. -/
def pktV1 (p : Word) : BitVec 3 := p.extractLsb' 28 3
/-- `I1`, byte 0 bits 3:0. -/
def pktI1 (p : Word) : BitVec 4 := p.extractLsb' 24 4
/-- `PD`, byte 1 bit 7. -/
def pktPd (p : Word) : BitVec 1 := p.extractLsb' 23 1
/-- `V2IDX`, byte 1 bits 6:4. -/
def pktV2 (p : Word) : BitVec 3 := p.extractLsb' 20 3
/-- `I2`, byte 1 bits 3:0. -/
def pktI2 (p : Word) : BitVec 4 := p.extractLsb' 16 4

/-- `VTABLE[index]`; none for an index over 4 (spec/30_encoding.md R122). -/
def voltage (index : BitVec 3) : Option (BitVec 9) := params.vtable[index.toNat]?

/-- A current code is valid from `I_MIN` to `I_MAX`: every code but 0 (spec/44_config_decoder.md R203). -/
def currentValid (code : BitVec 4) : Bool := params.iMin ≤ code.toNat && code.toNat ≤ params.iMax

/-- The record a packet stands for, or none when DECODE discards it: reserved bit set, a voltage index over 4, or a
current code 0 (spec/44_config_decoder.md R200 to R204). Bytes 2 and 3 are not read. -/
def recordOf (p : Word) : Option CfgRecord :=
  match voltage (pktV1 p), voltage (pktV2 p) with
  | some v1, some v2 =>
    if pktReserved p = 0 ∧ currentValid (pktI1 p) ∧ currentValid (pktI2 p) then
      some { v1 := v1, i1 := pktI1 p, v2 := v2, i2 := pktI2 p, reqPd := pktPd p = 1 }
    else none
  | _, _ => none

/-- A record DECODE can produce: voltages of the table, currents 1 to 15 (spec/10_state.md R25). -/
def CfgRecord.legal (c : CfgRecord) : Bool :=
  params.vtable.contains c.v1 && params.vtable.contains c.v2 && currentValid c.i1 && currentValid c.i2

end Sys2Proof.Machine
end

