-- ==== Sys2Proof/Machine/Flags.lean ====
section
/-!
DEFINITION. Every flag the block computes and the nine host-visible registers as the host reads them
(spec/10_state.md R21 to R30, R60 to R64).
-/
namespace Sys2Proof.Machine

/-- `DET_EN`, a view: `CAL_P2P > P2P_MIN` (spec/10_state.md R36, spec/41_level_detector.md R152). -/
def detEn (r : Receiver) : Bool := params.p2pMin < r.calP2p.toNat

/-- The detector's test of a sample: with detection on, above `THR_HIGH` at level 0 or below `THR_LOW` at level 1, both
strict (spec/41_level_detector.md R150 (b), R153). -/
def flips (smp : Sample) (r : Receiver) : Bool :=
  detEn r && (if r.level then smp < r.thrLow else r.thrHigh < smp)

/-- `STATUS` (spec/10_state.md R22). -/
def statusWord (s : State) : Word :=
  (0 : BitVec 26) ++ BitVec.ofBool s.flags.cfgValid ++ BitVec.ofBool (detEn s.rx) ++ BitVec.ofBool s.rx.level ++
  BitVec.ofBool s.flags.cmdErr ++ BitVec.ofBool s.flags.busOk ++ BitVec.ofBool s.flags.busy

/-- `CFG` as one register (spec/10_state.md R25). -/
def CfgRecord.word (c : CfgRecord) : Word :=
  (0 : BitVec 5) ++ BitVec.ofBool c.reqPd ++ c.i2 ++ c.v2 ++ c.i1 ++ c.v1

/-- `TICKV` (spec/10_state.md R26). -/
def tickView (r : Receiver) : Word := (0 : BitVec 16) ++ r.tick

/-- `THRV` (spec/10_state.md R27). -/
def thrView (r : Receiver) : Word := (0 : BitVec 2) ++ r.calP2p ++ r.thrHigh ++ r.thrLow

/-- `CALV` (spec/10_state.md R28). -/
def calView (r : Receiver) : Word := (0 : BitVec 2) ++ r.calPos ++ r.calMax ++ r.calMin

/-- `FRMV` (spec/10_state.md R29). -/
def frmView (r : Receiver) : Word := r.lastFlip ++ (0 : BitVec 11) ++ r.cur

/-- What the host reads from register `x[n]`; a register number of 9 or more does not exist and reads 0
(spec/10_state.md R21). -/
def readRegister (n : Nat) (s : State) : Word :=
  match n with
  | 0 => statusWord s
  | 1 => (0 : BitVec 16) ++ s.res
  | 2 => s.pkt
  | 3 => s.cfg.word
  | 4 => tickView s.rx
  | 5 => thrView s.rx
  | 6 => calView s.rx
  | 7 => frmView s.rx
  | 8 => s.cmd
  | _ => 0

end Sys2Proof.Machine
end

