-- ==== Sys2Proof/Machine/BusEngine.lean ====
section
/-!
DEFINITION. Bus Master Engine: BUS_XACT and REG_WRITE (spec/45_bus_engine.md). The two differ only in where the outbound
bytes come from: `outbound s i` is byte `i` of the write phase.
-/
namespace Sys2Proof.Machine

/-- An address phase sample shows a fault: arbitration loss or bus error (R222, R225). -/
def busFault (st : BusSample) : Bool := st.arblost || st.buserr

/-- An address phase's wait is over on either flag (R222). -/
def addressDone (st : BusSample) : Bool := st.wif || st.rif

/-- The end of every transaction but the early ones: `P_STOP`, `BUS_OK <- XOK`, return (R229). -/
def stopPhase (s : State) : State :=
  finishBus s.seq.xok (port .pStop { s with seq.bmeState := .stop })

/-- After the write phase: `XOK <- 1`, then the read address phase when bytes are to be read (R225). -/
def beginRead (s : State) : State :=
  if s.seq.xrlen = 0 then stopPhase { s with seq.xok := true }
  else port (.pAddr (addressByte s.seq.xaddr true)) { s with seq.xok := true, seq.bmeState := .addrR }

/-- Hand byte `i` of the write phase to the peripheral (R223). -/
def sendByte (outbound : State → Nat → Byte) (i : Byte) (s : State) : State :=
  port (.pWdata (outbound s i.toNat)) { s with seq.bmeState := .wrByte, seq.bidx := i }

/-- The start of a transaction: latch its operands, then the write address phase, or the read phase when there is
nothing to write (R221). -/
def beginTransaction (addr : BusAddr) (wlen rlen : Byte) (s : State) : State :=
  let t := { s with seq.xaddr := addr, seq.xwlen := wlen, seq.xrlen := rlen }
  if wlen = 0 then beginRead t
  else port (.pAddr (addressByte addr false)) { t with seq.bmeState := .addrW }

/-- The write address phase's wait is over: a fault clears the status and fails with no STOP (R222); else the write
loop begins. -/
def afterWriteAddress (outbound : State → Nat → Byte) (s : State) : State :=
  if busFault s.ports.bus then finishBus false (port .pClrerr s) else sendByte outbound 0 s

/-- A written byte's wait is over: a NACK stops and fails (R224); else the next byte, or the end of the write phase. -/
def afterWriteByte (outbound : State → Nat → Byte) (s : State) : State :=
  if s.ports.bus.rxack then finishBus false (port .pStop s)
  else if s.seq.bidx.toNat + 1 < s.seq.xwlen.toNat then sendByte outbound (s.seq.bidx + 1) s
  else beginRead s

/-- The read address phase's wait is over: a fault clears the status and falls through to STOP (R226); else the read
loop begins, with no port command before its first wait (R227). -/
def afterReadAddress (s : State) : State :=
  if busFault s.ports.bus then stopPhase (port .pClrerr { s with seq.xok := false })
  else { s with seq.bmeState := .rdByte, seq.bidx := 0 }

/-- A read byte's wait is over: capture it, then ACK and wait for the next, or NACK and STOP; the answer is made from
the count remaining after this byte (R227, R228). -/
def afterReadByte (s : State) : State :=
  let t := { s with rbuf := s.rbuf.write s.seq.bidx.toNat s.ports.bus.rdata }
  if s.seq.bidx.toNat + 1 < s.seq.xrlen.toNat then
    port (.pRxnext false) { t with seq.bidx := s.seq.bidx + 1 }
  else stopPhase (port (.pRxnext true) t)

/-- If the engine's wait is over, go on from it (R221). Only the flags named are looked at (R232). -/
def busAdvance (outbound : State → Nat → Byte) (s : State) : State :=
  match s.seq.bmeState with
  | .idle => s
  | .addrW => if addressDone s.ports.bus then afterWriteAddress outbound s else s
  | .wrByte => if s.ports.bus.wif then afterWriteByte outbound s else s
  | .addrR => if addressDone s.ports.bus then afterReadAddress s else s
  | .rdByte => if s.ports.bus.rif then afterReadByte s else s
  | .stop => s

/-- Run the engine up to a wait that is not over: a read address phase that ended with `RIF = 1` serves the first read
wait in the same sample, with no new suspension (R227); every other wait follows a port command, which clears the
flags. -/
def busRun (outbound : State → Nat → Byte) (s : State) : State := busAdvance outbound (busAdvance outbound s)

/-- BUS_XACT's outbound bytes: `MemRead(WBUF, i, 1)` (R221). -/
def fromWbuf (s : State) (i : Nat) : Byte := s.wbuf.read i

/-- REG_WRITE's outbound bytes: `REG` is index 0, `VAL` index 1 (R235). -/
def fromOperands (reg val : Byte) (_ : State) (i : Nat) : Byte := if i = 0 then reg else val

/-- BUS_XACT (R221). -/
def execBusXact (addr : BusAddr) (wlen rlen : Byte) (s : State) : Host.Outcome State Fault Refusal :=
  .next (runOperation (.busXact addr wlen rlen) (beginTransaction addr wlen rlen) (busRun fromWbuf) s)

/-- REG_WRITE (R235): a transaction of 2 bytes to write and none to read, the bytes taken from the command word. -/
def execRegWrite (addr : BusAddr) (reg val : Byte) (s : State) : Host.Outcome State Fault Refusal :=
  .next (runOperation (.regWrite addr reg val) (beginTransaction addr 2 0) (busRun (fromOperands reg val)) s)

end Sys2Proof.Machine
end

