-- ==== Sys2Proof/Machine/TickSample.lean ====
section
/-!
DEFINITION. Tick Clock and Sample Source: WAIT_TICK and SAMPLE (spec/40_tick_sample.md).
-/
namespace Sys2Proof.Machine

/-- WAIT_TICK (R140): wait for `TOV`, clear it, count the tick, return; `RES` is left as it was. -/
def execWaitTick (s : State) : Host.Outcome State Fault Refusal :=
  .next (runOperation .waitTick awaitTick (rxRun finish (fun _ t => t)) s)

/-- SAMPLE's return as a host command: `RES <- zext_16(s)` (R142). -/
def returnSample (smp : Sample) (s : State) : State := finish { s with res := smp.setWidth 16 }

/-- SAMPLE (R142): start a conversion, wait for `ADC_DONE`, take the reading. -/
def execSample (s : State) : Host.Outcome State Fault Refusal :=
  .next (runOperation .sample startConversion (rxRun (fun t => t) returnSample) s)

end Sys2Proof.Machine
end

