-- ==== Sys2Proof/Machine/LevelDetector.lean ====
section
/-!
DEFINITION. Adaptive Level Detector: NEXT_EDGE (spec/41_level_detector.md).
-/
namespace Sys2Proof.Machine

/-- Step (a): fold the sample into the running minimum and maximum, by two independent comparisons (R151). -/
def foldSample (smp : Sample) (r : Receiver) : Receiver :=
  { r with
    calMin := if smp < r.calMin then smp else r.calMin
    calMax := if r.calMax < smp then smp else r.calMax }

/-- The window end: store the peak-to-peak, derive the thresholds, start a new window (R155). -/
def endWindow (r : Receiver) : Receiver :=
  let p := r.calMax.toNat - r.calMin.toNat
  { r with
    calP2p := BitVec.ofNat 10 p
    thrLow := BitVec.ofNat 10 (percentAbove r.calMin.toNat p params.ldLowPct)
    thrHigh := BitVec.ofNat 10 (percentAbove r.calMin.toNat p params.ldHighPct)
    calMin := 1023
    calMax := 0
    calPos := 0 }

/-- Step (c): count the sample; when the count reaches `BLOCK_SIZE` the window ends (R155). -/
def countSample (r : Receiver) : Receiver :=
  if r.calPos.toNat + 1 = params.blockSize then endWindow r else { r with calPos := r.calPos + 1 }

/-- Step (d): the new level and the time of its flip (R158). -/
def commitFlip (r : Receiver) : Receiver := { r with level := !r.level, lastFlip := r.tick }

/-- What one iteration makes of its sample, in the order fold, test, count and window end, commit (R150, R156): the
receiver after it, and the duration when the level flips. -/
def detect (smp : Sample) (r : Receiver) : Receiver × Option Tick :=
  let folded := foldSample smp r
  let counted := countSample folded
  if flips smp folded then (commitFlip counted, some (duration counted.tick counted.lastFlip))
  else (counted, none)

/-- One iteration of NEXT_EDGE after its SAMPLE: the duration when the call returns. -/
def edgeIteration (smp : Sample) (s : State) : State × Option Tick :=
  ({ s with rx := (detect smp s.rx).1 }, (detect smp s.rx).2)

/-- A NEXT_EDGE command after a reading: return the duration in `RES`, or go round the loop (R150). -/
def nextEdgeReading (smp : Sample) (s : State) : State :=
  match edgeIteration smp s with
  | (t, some d) => finish { t with res := d }
  | (t, none) => awaitTick t

/-- NEXT_EDGE (R150): wait a tick, sample, detect, until the level flips; no timeout (R159). -/
def execNextEdge (s : State) : Host.Outcome State Fault Refusal :=
  .next (runOperation .nextEdge awaitTick (rxRun startConversion nextEdgeReading) s)

end Sys2Proof.Machine
end

