-- ==== Sys2Proof/Machine/PeriodMeasurer.lean ====
section
/-!
DEFINITION. Period Measurer: FULL_PERIOD (spec/42_period_measurer.md).
-/
namespace Sys2Proof.Machine

/-- Come to the start of FULL_PERIOD: `EDGE_NO <- 0`, then the first NEXT_EDGE (R170). -/
def beginPeriod (s : State) : State := awaitTick { s with seq.edgeNo := 0 }

/-- One reading inside FULL_PERIOD: the first edge's duration is kept in `D1`; the second gives the period, the sum
modulo 65536 (R170, R171). -/
def periodIteration (smp : Sample) (s : State) : State × Option Tick :=
  match edgeIteration smp s with
  | (t, none) => (t, none)
  | (t, some d) =>
    if t.seq.edgeNo = 0 then ({ t with seq.d1 := d, seq.edgeNo := 1 }, none)
    else (t, some (t.seq.d1 + d))

/-- A FULL_PERIOD command after a reading: return the period in `RES`, or wait for the next tick. -/
def fullPeriodReading (smp : Sample) (s : State) : State :=
  match periodIteration smp s with
  | (t, some m) => finish { t with res := m }
  | (t, none) => awaitTick t

/-- FULL_PERIOD (R170). -/
def execFullPeriod (s : State) : Host.Outcome State Fault Refusal :=
  .next (runOperation .fullPeriod beginPeriod (rxRun startConversion fullPeriodReading) s)

end Sys2Proof.Machine
end

