-- ==== Sys2Proof/Machine/Framer.lean ====
section
/-!
DEFINITION. Bit-Timing Framer with CRC check: READ_PACKET (spec/43_framer.md).
-/
namespace Sys2Proof.Machine

/-- Ring write: `RING[CUR] <- m`, then the cursor advances modulo 32 (R176). -/
def pushPeriod (m : Tick) (r : Receiver) : Receiver :=
  { r with ring := ringSet r.ring r.cur m, cur := r.cur + 1 }

/-- The `FR_WIN` newest entries, `RING[(CUR − k) mod 32]` for `k` from 1 (R177). -/
def newest (r : Receiver) : List Tick :=
  (List.range params.frWin).map fun k => ringGet r.ring (r.cur - BitVec.ofNat 5 (k + 1))

/-- All entries, oldest first: `RING[(CUR + i) mod 32]`, `i` from 0 (R176, R180). -/
def oldestFirst (r : Receiver) : List Tick :=
  (List.range params.ringCap).map fun i => ringGet r.ring (r.cur + BitVec.ofNat 5 i)

/-- The smallest of the entries (65535, the largest u16, for none). -/
def minOf (es : List Tick) : Nat := es.foldl (fun acc e => min acc e.toNat) 65535

/-- The largest of the entries (0 for none). -/
def maxOf (es : List Tick) : Nat := es.foldl (fun acc e => max acc e.toNat) 0

/-- `lo` of step 1 (R177). -/
def splitLow (es : List Tick) : Nat := percentAbove (minOf es) (maxOf es - minOf es) params.frLowPct

/-- `hi` of step 1 (R177). -/
def splitHigh (es : List Tick) : Nat := percentAbove (minOf es) (maxOf es - minOf es) params.frHighPct

/-- Step 2 on one entry: 1 if at least `hi`, 0 if at most `lo`, otherwise ambiguous (R180). -/
def classify (lo hi : Nat) (e : Tick) : Option Bool :=
  if hi ≤ e.toNat then some true else if e.toNat ≤ lo then some false else none

/-- Step 2 on all entries: one ambiguous entry voids the candidate (R181). -/
def classifyAll (lo hi : Nat) : List Tick → Option (List Bool)
  | [] => some []
  | e :: es =>
    match classify lo hi e, classifyAll lo hi es with
    | some b, some bs => some (b :: bs)
    | _, _ => none

/-- Eight bits as a byte, the first the most significant (R182). -/
def byteOfBits (bs : List Bool) : Byte := BitVec.ofNat 8 (bs.foldl (fun acc b => 2 * acc + b.toNat) 0)

/-- Step 3: byte `k` of the candidate, from bits `8k` to `8k + 7` (R182). -/
def packByte (bs : List Bool) (k : Nat) : Byte := byteOfBits ((bs.drop (8 * k)).take 8)

/-- Steps 1 to 4 on the ring's contents: the packet of a candidate that passes the depth check (R179), the
classification (R180) and the checksum (R183); none for one that is discarded (R187). -/
def framePacket (window all : List Tick) : Option Word :=
  if splitHigh window - splitLow window < params.frDepthMin then none
  else
    match classifyAll (splitLow window) (splitHigh window) all with
    | none => none
    | some bs =>
      if crcMatches (packByte bs 0) (packByte bs 1) (packByte bs 2) (packByte bs 3) then
        some (packetWord (packByte bs 0) (packByte bs 1) (packByte bs 2) (packByte bs 3))
      else none

/-- One reading inside READ_PACKET. When it ends a period, the period goes into the ring and the candidate is tried: a
valid one is written to `PKT` and returned, any other silently discarded and the next FULL_PERIOD begun (R175, R187). -/
def packetIteration (smp : Sample) (s : State) : State × Option Word :=
  match periodIteration smp s with
  | (t, none) => (t, none)
  | (t, some m) =>
    let r := pushPeriod m t.rx
    match framePacket (newest r) (oldestFirst r) with
    | some p => ({ t with rx := r, pkt := p }, some p)
    | none => ({ t with rx := r, seq.edgeNo := 0 }, none)

/-- A READ_PACKET command after a reading. -/
def readPacketReading (smp : Sample) (s : State) : State :=
  match packetIteration smp s with
  | (t, some _) => finish t
  | (t, none) => awaitTick t

/-- READ_PACKET (R175). -/
def execReadPacket (s : State) : Host.Outcome State Fault Refusal :=
  .next (runOperation .readPacket beginPeriod (rxRun startConversion readPacketReading) s)

end Sys2Proof.Machine
end

