-- ==== Sys2Proof/Machine/ConfigDecoder.lean ====
section
/-!
DEFINITION. Configuration Decoder: DECODE and DECODE_CONFIG (spec/44_config_decoder.md).
-/
namespace Sys2Proof.Machine

/-- What DECODE does with `PKT`: write `CFG` and set `CFG_VALID`, or clear `CFG_VALID` and leave `CFG` (R200). -/
def decodePacket (s : State) : State :=
  match recordOf s.pkt with
  | some c => { s with cfg := c, flags.cfgValid := true }
  | none => { s with flags.cfgValid := false }

/-- DECODE (R200): one step, no wait, and so nothing to go on from. -/
def execDecode (s : State) : Host.Outcome State Fault Refusal :=
  .next (runOperation .decode (fun t => finish (decodePacket t)) (fun t => t) s)

/-- A DECODE_CONFIG command after a reading: a packet is decoded; a record ends the operation, a discard asks the
framer for another packet (R206, R207). -/
def decodeConfigReading (smp : Sample) (s : State) : State :=
  match packetIteration smp s with
  | (t, none) => awaitTick t
  | (t, some _) =>
    if (decodePacket t).flags.cfgValid then finish (decodePacket t) else beginPeriod (decodePacket t)

/-- DECODE_CONFIG (R206). -/
def execDecodeConfig (s : State) : Host.Outcome State Fault Refusal :=
  .next (runOperation .decodeConfig beginPeriod (rxRun startConversion decodeConfigReading) s)

end Sys2Proof.Machine
end

