-- ==== Sys2Proof/Machine/Dispatch.lean ====
section
/-!
DEFINITION. The dispatch: one arm per operation, each one direct call of its meaning.
-/
namespace Sys2Proof.Machine

def exec (i : Instr) (s : State) : Host.Outcome State Fault Refusal :=
  match i with
  | .waitTick => Sys2Proof.Machine.execWaitTick s
  | .sample => Sys2Proof.Machine.execSample s
  | .nextEdge => Sys2Proof.Machine.execNextEdge s
  | .fullPeriod => Sys2Proof.Machine.execFullPeriod s
  | .readPacket => Sys2Proof.Machine.execReadPacket s
  | .decode => Sys2Proof.Machine.execDecode s
  | .decodeConfig => Sys2Proof.Machine.execDecodeConfig s
  | .busXact addr wlen rlen => Sys2Proof.Machine.execBusXact addr wlen rlen s
  | .regWrite addr reg val => Sys2Proof.Machine.execRegWrite addr reg val s

end Sys2Proof.Machine
end

