-- ==== Sys2Proof/Machine/HostPort.lean ====
section
/-!
DEFINITION. What the outside world does to the machine between two steps of the block: host accesses
(spec/20_memory.md R70, R72) and the environment's signals (spec/10_state.md R64 to R66).
-/
namespace Sys2Proof.Machine

/-- A host read of one element, at any time; an index outside the space reads 0 (spec/20_memory.md R70, R72). -/
def hostReadValue (sp : Space) (index : Nat) (s : State) : Word :=
  match sp with
  | .reg => readRegister index s
  | .wbuf => if index < params.bufLen then (s.wbuf.read index).setWidth 32 else 0
  | .rbuf => if index < params.bufLen then (s.rbuf.read index).setWidth 32 else 0
  | .ring => if index < params.ringCap then (ringGet s.rx.ring (BitVec.ofNat 5 index)).setWidth 32 else 0

/-- A host write of one element, and the command word it presents, if any. While `BUSY = 1` every write is ignored
(spec/20_memory.md R72, spec/10_state.md R30); only `WBUF`, `x[2]` and `x[8]` can be written; a write to anything else,
or outside a space, is ignored (R70). A `WBUF` byte takes the low 8 bits of the value (log entry 9). -/
def hostWrite (sp : Space) (index : Nat) (value : Word) (s : State) : State × Option Word :=
  if s.flags.busy then (s, none)
  else
    match sp with
    | .reg =>
      if index = 2 then ({ s with pkt := value }, none)
      else if index = 8 then ({ s with cmd := value }, some value)
      else (s, none)
    | .wbuf =>
      if index < params.bufLen then ({ s with wbuf := s.wbuf.write index (value.setWidth 8) }, none) else (s, none)
    | .rbuf => (s, none)
    | .ring => (s, none)

/-- One input takes place; the result holds the command word it presents, if any. -/
def applyInput (e : Input) (s : State) : State × Option Word :=
  match e with
  | .timerOverflow => ({ s with ports.tov := true }, none)
  | .conversionDone data => ({ s with ports.adcDone := true, ports.adcData := data }, none)
  | .busSample st => ({ s with ports.bus := st }, none)
  | .hostRead sp index => (emit (.hostData (hostReadValue sp index s)) s, none)
  | .hostWrite sp index value => hostWrite sp index value s
  | .rst level => ({ s with ports.rst := level }, none)

/-- The next input of the inbox, if there is one, takes place. -/
def takeInput (s : State) : State × Option Word :=
  match s.inbox with
  | [] => (s, none)
  | e :: rest => applyInput e { s with inbox := rest }

/-! ### The environment's side, for claims about reception -/

/-- The two inputs that carry one iteration of the Level Detector: a tick and a reading (spec/40_tick_sample.md R144). -/
def iterationInputs (smp : Sample) : List Input := [.timerOverflow, .conversionDone smp]

/-- The samples of one bit's cell of the transmitter, `dark` samples of the low amplitude and `bright` of the high one,
in the order of `CELL_PHASE` (spec/92_eei_decisions.md D16, spec/95_test_vectors.md V-E1, V-E2). -/
def cellSamples (phase : CellPhase) (dark bright : Nat) (low high : Sample) : List Sample :=
  match phase with
  | .darkFirst => List.replicate dark low ++ List.replicate bright high
  | .brightFirst => List.replicate bright high ++ List.replicate dark low

/-- A command word in front of everything else the outside world does, on a block that is idle and not held in reset:
the very next step takes it. -/
def presentCommand (w : Word) (s : State) : State :=
  { finish s with ports.rst := false, inbox := .hostWrite .reg 8 w :: s.inbox }

end Sys2Proof.Machine
end

