-- ==== Sys2Proof/Machine/Step.lean ====
section
/-!
DEFINITION. One step of the machine: the next thing the outside world does, if anything, then what the block does at
once on account of it.
-/
namespace Sys2Proof.Machine

/-- One step. The next input takes place; then
- while `rst` is asserted the block is held at its reset values (spec/70_reset_and_hazards.md R300);
- a command word presented to an idle block is decoded: it starts its operation, or is refused
  (spec/30_encoding.md R100, R110 to R112);
- otherwise the operation in progress goes on if what it waits for is there (spec/00_scope.md R8 `await`, R9), and a
  block with nothing to do, or nothing it waits for, stays as it is: runs that never end are kept
  (spec/70_reset_and_hazards.md R316). -/
def step (s : State) : Host.Outcome State Fault Refusal :=
  match takeInput s with
  | (t, command) =>
    if t.ports.rst then .next (blockReset t)
    else
      match command with
      | some w =>
        match decode w with
        | .ok i => exec i t
        | .error _ => .next (refuseCommand t)
      | none =>
        match t.seq.opr with
        | some i => exec i t
        | none => .next t

/-- `s` with that instruction presented by the host as the next thing that happens (log entry 6). -/
def State.withFetchWord (s : State) (nbits w : Nat) : State := presentCommand (tableWord nbits w) s

end Sys2Proof.Machine
end

