-- ==== Sys2Proof/Safety.lean ====
section
/-!
DEFINITION. The terms claims are made in: an operation in progress, what it waits for, what the Bus port has shown, and
the invariant of a run.
-/
namespace Sys2Proof.Machine

/-- Operation `i` is in progress: `BUSY = 1` and `OPR = i` (spec/10_state.md R50, R60). -/
abbrev Running (i : Instr) (s : State) : Prop := s.flags.busy = true ∧ s.seq.opr = some i

/-- The port commands shown on the Bus port so far, oldest first (spec/45_bus_engine.md R218 "trace"). -/
def busTrace (s : State) : List BusCmd := s.trace.filterMap PortOut.busCmd?

/-- The receiver's wait is over: the flag it is suspended on is up. -/
def rxWaitOver (s : State) : Bool :=
  match s.seq.rxState with
  | .idle => false
  | .waitTick => s.ports.tov
  | .waitAdc => s.ports.adcDone

/-- The engine's wait is over (spec/45_bus_engine.md R221). -/
def busWaitOver (s : State) : Bool :=
  match s.seq.bmeState with
  | .idle => false
  | .addrW => addressDone s.ports.bus
  | .wrByte => s.ports.bus.wif
  | .addrR => addressDone s.ports.bus
  | .rdByte => s.ports.bus.rif
  | .stop => false

/-- The operation in progress has something to go on from. -/
def waitOver (s : State) : Bool :=
  match s.seq.opr with
  | none => false
  | some i => if i.isReceiver then rxWaitOver s else busWaitOver s

/-- The block has nothing to do before an input comes: it is idle, or what the operation in progress waits for is not
there. -/
abbrev AtRest (s : State) : Prop :=
  (s.flags.busy = false ∧ s.seq.opr = none) ∨ ((∃ i, Running i s) ∧ waitOver s = false)

/-- Both buffers are in canonical form and inside `BUF_LEN`. -/
abbrev BuffersOk (s : State) : Prop := s.wbuf.wf ∧ s.wbuf.within ∧ s.rbuf.wf ∧ s.rbuf.within

/-- The calibration window: the position is in [0, 999] (spec/10_state.md R34), an empty window holds the sentinels and
any other has its minimum at most its maximum (R32, R33), the thresholds are in order (R35), and apart while detection
is on. -/
abbrev WindowOk (r : Receiver) : Prop :=
  r.calPos.toNat < params.blockSize ∧ (r.calPos = 0 → r.calMin = 1023 ∧ r.calMax = 0) ∧
  (r.calPos ≠ 0 → r.calMin ≤ r.calMax) ∧ r.thrLow ≤ r.thrHigh ∧ (detEn r = true → r.thrLow < r.thrHigh)

/-- `CFG` is what reset left or a legal record, and a legal record while `CFG_VALID = 1` (spec/10_state.md R25, R63). -/
abbrev CfgOk (s : State) : Prop :=
  (s.cfg = .reset ∨ s.cfg.legal = true) ∧ (s.flags.cfgValid = true → s.cfg.legal = true)

/-- Where a transaction in progress can be suspended: its latched operands are those of the command, the index of the
byte in flight is below the length, and nothing has failed yet (spec/45_bus_engine.md R221). -/
def transactionOk (addr : BusAddr) (wlen rlen : Byte) (q : Sequencing) : Bool :=
  q.xaddr == addr && q.xwlen == wlen && q.xrlen == rlen &&
  match q.bmeState with
  | .idle => false
  | .addrW => wlen != 0
  | .wrByte => q.bidx < wlen
  | .addrR => rlen != 0 && q.xok
  | .rdByte => q.bidx < rlen && q.xok
  | .stop => false

/-- Where operation `i` can be suspended (spec/10_state.md R50). DECODE never is. -/
def suspendedOk (i : Instr) (q : Sequencing) : Bool :=
  match i with
  | .waitTick => q.rxState == .waitTick && q.bmeState == .idle
  | .sample => q.rxState == .waitAdc && q.bmeState == .idle
  | .nextEdge => q.rxState != .idle && q.bmeState == .idle
  | .fullPeriod => q.rxState != .idle && q.bmeState == .idle
  | .readPacket => q.rxState != .idle && q.bmeState == .idle
  | .decode => false
  | .decodeConfig => q.rxState != .idle && q.bmeState == .idle
  | .busXact addr wlen rlen => q.rxState == .idle && transactionOk addr wlen rlen q
  | .regWrite addr _ _ => q.rxState == .idle && transactionOk addr 2 0 q

/-- `BUSY = 0` exactly between operations, with the sequencing state of R50; while an operation runs it is the
well-formed one `CMD` holds, `CMD_ERR = 0`, and it is suspended at one of its waits. -/
def sequencingOk (s : State) : Bool :=
  match s.seq.opr with
  | none => !s.flags.busy && s.seq.rxState == .idle && s.seq.bmeState == .idle
  | some i =>
    s.flags.busy && !s.flags.cmdErr && i.wellFormed && suspendedOk i s.seq &&
    match decode s.cmd with
    | .ok j => j == i
    | .error _ => false

/-- The invariant of every run. -/
abbrev Inv (s : State) : Prop := BuffersOk s ∧ WindowOk s.rx ∧ CfgOk s ∧ sequencingOk s = true

/-- The detector's test, spelled out (spec/41_level_detector.md R150 (b), R152, R153): detection is on and the sample is
beyond the threshold that the level asks for. -/
def Crossing (smp : Sample) (r : Receiver) : Prop :=
  100 < r.calP2p.toNat ∧
  ((r.level = false ∧ r.thrHigh.toNat < smp.toNat) ∨ (r.level = true ∧ smp.toNat < r.thrLow.toNat))

/-- `q` is `r` with one more sample in the calibration window, over the integers (spec/41_level_detector.md R151, R155):
folded into the minimum and maximum and counted; the 1000th sample ends the window. -/
def SampleCounted (smp : Sample) (r q : Receiver) : Prop :=
  let lo := min r.calMin.toNat smp.toNat
  let hi := max r.calMax.toNat smp.toNat
  if r.calPos.toNat + 1 = 1000 then
    q.calP2p.toNat = hi - lo ∧ q.thrLow.toNat = lo + 30 * (hi - lo) / 100 ∧
    q.thrHigh.toNat = lo + 70 * (hi - lo) / 100 ∧ q.calMin = 1023 ∧ q.calMax = 0 ∧ q.calPos = 0
  else
    q.calPos = r.calPos + 1 ∧ q.calMin.toNat = lo ∧ q.calMax.toNat = hi ∧
    q.calP2p = r.calP2p ∧ q.thrLow = r.thrLow ∧ q.thrHigh = r.thrHigh

/-- The sequencing state of an ended operation (spec/10_state.md R50). -/
def ended (q : Sequencing) : Sequencing := { q with opr := none, rxState := .idle, bmeState := .idle }

/-- What no receiver operation touches: the buffers, `CMD`, and everything of the bus engine
(spec/60_exceptions.md R264). -/
def SameOutsideReceiver (s t : State) : Prop :=
  t.wbuf = s.wbuf ∧ t.rbuf = s.rbuf ∧ t.cmd = s.cmd ∧ t.flags.busOk = s.flags.busOk ∧ busTrace t = busTrace s ∧
  t.ports.bus = s.ports.bus ∧ t.inbox = s.inbox

/-- What no bus operation touches: the receiver, its results, `CMD`, `WBUF`, the Tick and Sample ports: their inputs, and
their outputs, on which no pulse has come (spec/10_state.md R65). -/
def SameOutsideBus (s t : State) : Prop :=
  t.rx = s.rx ∧ t.res = s.res ∧ t.pkt = s.pkt ∧ t.cfg = s.cfg ∧ t.cmd = s.cmd ∧ t.wbuf = s.wbuf ∧
  t.flags.cfgValid = s.flags.cfgValid ∧ t.ports.tov = s.ports.tov ∧ t.ports.adcDone = s.ports.adcDone ∧
  t.ports.adcData = s.ports.adcData ∧ t.ports.rst = s.ports.rst ∧ t.inbox = s.inbox ∧
  t.trace.count .tovClr = s.trace.count .tovClr ∧ t.trace.count .adcStart = s.trace.count .adcStart

/-- What an edge or a period leaves alone beside `SameOutsideReceiver`: the packet and the record. -/
def SameResults (s t : State) : Prop :=
  t.pkt = s.pkt ∧ t.cfg = s.cfg ∧ t.flags.cfgValid = s.flags.cfgValid ∧ t.flags.cmdErr = s.flags.cmdErr

/-- `s` after the tick of a loop's iteration: the tick consumed, the conversion started and waited for
(spec/40_tick_sample.md R140, R142, R144). -/
def tickTaken (s : State) : State :=
  { s with
    rx.tick := s.rx.tick + 1, ports.tov := false, seq.rxState := .waitAdc, trace := s.trace ++ [.tovClr, .adcStart] }

/-- From `s` the reading has been taken and the loop has gone round: `t` waits for the next tick, or, when `TOV` was up
already, has consumed it and waits for the next conversion (spec/40_tick_sample.md R140 corner case,
spec/60_exceptions.md R265). -/
def GoesRound (s t : State) : Prop :=
  if s.ports.tov = true then
    t.rx.tick = s.rx.tick + 1 ∧ t.seq.rxState = .waitAdc ∧
    t.ports = { s.ports with adcDone := false, tov := false } ∧ t.trace = s.trace ++ [.tovClr, .adcStart]
  else
    t.rx.tick = s.rx.tick ∧ t.seq.rxState = .waitTick ∧
    t.ports = { s.ports with adcDone := false } ∧ t.trace = s.trace

/-- An index outside its space (spec/20_memory.md R70). -/
def outsideSpace (sp : Space) (index : Nat) : Bool :=
  match sp with
  | .reg => 9 ≤ index
  | .wbuf => params.bufLen ≤ index
  | .rbuf => params.bufLen ≤ index
  | .ring => params.ringCap ≤ index

/-- A host write that the block ignores: outside its space, to an element the host cannot write, or while `BUSY = 1`
(spec/20_memory.md R70, R72). -/
def WriteIgnored (sp : Space) (index : Nat) (s : State) : Prop :=
  outsideSpace sp index = true ∨ sp = .rbuf ∨ sp = .ring ∨ (sp = .reg ∧ index ≠ 2 ∧ index ≠ 8) ∨ s.flags.busy = true

/-- The write part of a transaction's trace, `W` of spec/45_bus_engine.md R230: empty when there is nothing to write. -/
def writePart (addr : BusAddr) (bytes : List Byte) : List BusCmd :=
  if bytes = [] then [] else .pAddr (addressByte addr false) :: bytes.map .pWdata

/-- The first `n` bytes of a buffer. -/
def bufferBytes (m : Memory) (n : Nat) : List Byte := (List.range n).map m.read

/-- An address phase sample that shows completion and no fault. -/
def addressClear (st : BusSample) : Bool := addressDone st && !busFault st

/-- A write sample that shows an acknowledged byte. -/
def acknowledged (st : BusSample) : Bool := st.wif && !st.rxack

end Sys2Proof.Machine
end

