-- ==== Sys2Proof/Certificates/Slice0/Obligations.lean ====
section
/-!
DEFINITION. The statements for the provers. A `Running i s` in a hypothesis says that operation `i` is in progress
(`BUSY = 1`, `OPR = i`); `s.flags.busy = false` that the block is idle. `exec i` on an idle block starts `i`, on a block
that is running `i` it goes on from the wait `i` is suspended at (log entry 6).
-/
open Sys2Proof Sys2Proof.Machine

/-! ### Encoding -/

/-- Decode and encode agree on every operation, with every operand at every value. -/
def Obligations.EncodedInstructionDecodesToItself : Prop :=
  ∀ i : Instr, decode (encode i) = .ok i

/-- A word has one meaning: what the decoder accepts is the encoding of what it answers, no bit dropped. -/
def Obligations.DecodedWordIsTheEncodingOfItsInstruction : Prop :=
  ∀ (w : Word) (i : Instr), decode w = .ok i → encode i = w

/-- Words written out from spec/30_encoding.md R101 to R104 and its vectors decode to the operations they stand for. -/
def Obligations.WrittenOutWordsDecode : Prop :=
  decode 0x10000000 = .ok .waitTick ∧ decode 0x20000000 = .ok .sample ∧ decode 0x30000000 = .ok .nextEdge ∧
  decode 0x40000000 = .ok .fullPeriod ∧ decode 0x50000000 = .ok .readPacket ∧ decode 0x60000000 = .ok .decode ∧
  decode 0x70000000 = .ok .decodeConfig ∧ decode 0x82800102 = .ok (.busXact 0x28 1 2) ∧
  decode 0x87F0FFFF = .ok (.busXact 0x7F 0xFF 0xFF) ∧ decode 0x92801A26 = .ok (.regWrite 0x28 0x1A 0x26)

/-! ### Commands: acceptance, refusal, a busy block -/

/-- A command word presented to an idle block that decodes to `i` is run: the step is `exec i` on the state with the
input consumed and the word in `CMD`. -/
def Obligations.StepRunsTheDecodedInstruction : Prop :=
  ∀ (s : State) (w : Word) (rest : List Input) (i : Instr),
    s.flags.busy = false → s.ports.rst = false → s.inbox = .hostWrite .reg 8 w :: rest → decode w = .ok i →
    step s = exec i { s with inbox := rest, cmd := w }

/-- A step of a busy block not held in reset is one more step of the operation in progress, after whatever input comes;
host writes are among those inputs and change nothing (the state they leave differs in the inbox only). -/
def Obligations.StepResumesTheRunningOperation : Prop :=
  ∀ (s : State) (i : Instr), Running i s → (takeInput s).1.ports.rst = false →
    step s = exec i (takeInput s).1 ∧ Running i (takeInput s).1 ∧
    (∀ sp ix v rest, s.inbox = .hostWrite sp ix v :: rest → (takeInput s).1 = { s with inbox := rest })

/-- Reserved opcodes (R110), defined opcodes with a reserved bit set (R111), a BUS_XACT with both lengths 0: the word is
refused, which sets `CMD_ERR`, updates what `CMD` reads back, and changes nothing else (R112). -/
def Obligations.RefusedWordsOnlySetCmdErr : Prop :=
  ∀ (s : State) (w : Word) (rest : List Input),
    s.flags.busy = false → s.ports.rst = false → s.inbox = .hostWrite .reg 8 w :: rest →
    (opField w = 0 ∨ 10 ≤ (opField w).toNat ∨
      ((opField w).toNat < 8 ∧ lowField w ≠ 0) ∨ (bit27Field w ≠ 0 ∨ bits19Field w ≠ 0) ∧ 8 ≤ (opField w).toNat ∨
      (∃ addr, w = encode (.busXact addr 0 0))) →
    step s = .next { s with inbox := rest, cmd := w, flags.cmdErr := true }

/-- A BUS_XACT with both lengths 0 is refused; with either length above 0 it is accepted. -/
def Obligations.ZeroLengthTransactionIsRefused : Prop :=
  ∀ (s : State) (addr : BusAddr) (wlen rlen : Byte), s.flags.busy = false →
    (wlen = 0 ∧ rlen = 0 → exec (.busXact addr wlen rlen) s = .next { s with flags.cmdErr := true }) ∧
    (¬(wlen = 0 ∧ rlen = 0) → ∃ t, exec (.busXact addr wlen rlen) s = .next t ∧
      Running (.busXact addr wlen rlen) t ∧ t.flags.cmdErr = false)

/-- While a command runs and what it waits for is not there, `exec` of it changes nothing: an `await` takes no step. -/
def Obligations.AwaitTakesNoStepBeforeItsCondition : Prop :=
  ∀ (i : Instr) (s : State), Running i s → waitOver s = false → exec i s = .next s

/-- No step ends in a fault or a refusal: the block has no trap. -/
def Obligations.EveryStepAnswersANextState : Prop :=
  ∀ s : State, ∃ t, step s = .next t

/-- The idle block waits for a command: a step with no input to come changes nothing, and right after reset there is
none. -/
def Obligations.IdleBlockWaitsForTheFirstCommand : Prop :=
  (∀ s : State, s.flags.busy = false → s.seq.opr = none → s.ports.rst = false → s.inbox = [] → step s = .next s) ∧
  step State.reset = .next State.reset

/-! ### Reset -/

/-- Asserting `rst` puts every element of the block's state at its reset value in the same step, whatever was running,
with no port command and with the environment's signals left as they are. -/
def Obligations.AssertedResetGivesTheResetValues : Prop :=
  ∀ (s : State) (rest : List Input), s.inbox = .rst true :: rest →
    ∃ t, step s = .next t ∧
      t.rx.tick = 0 ∧ t.rx.calMin = 1023 ∧ t.rx.calMax = 0 ∧ t.rx.calPos = 0 ∧ t.rx.calP2p = 0 ∧ t.rx.thrLow = 0 ∧
      t.rx.thrHigh = 1023 ∧ t.rx.level = false ∧ t.rx.lastFlip = 0 ∧ (∀ k, ringGet t.rx.ring k = 0) ∧ t.rx.cur = 0 ∧
      t.res = 0 ∧ t.pkt = 0 ∧ t.cfg.word = 0 ∧ t.cmd = 0 ∧ (∀ k, t.wbuf.read k = 0 ∧ t.rbuf.read k = 0) ∧
      t.flags.busy = false ∧ t.flags.busOk = false ∧ t.flags.cmdErr = false ∧ t.flags.cfgValid = false ∧
      t.seq.opr = none ∧ t.seq.rxState = .idle ∧ t.seq.bmeState = .idle ∧
      t.ports = { s.ports with rst := true } ∧ t.trace = s.trace

/-- While `rst` stays asserted no input is taken as a command, nothing is written and no port command is issued. -/
def Obligations.HeldResetAcceptsNothing : Prop :=
  ∀ (s : State) (e : Input) (rest : List Input), s.ports.rst = true → e ≠ .rst false → s.inbox = e :: rest →
    ∃ t, step s = .next t ∧ t.flags.busy = false ∧ t.seq.opr = none ∧ t.cmd = 0 ∧ t.pkt = 0 ∧ t.wbuf = [] ∧
      t.ports.rst = true ∧ busTrace t = busTrace s ∧
      t.trace.count .tovClr = s.trace.count .tovClr ∧ t.trace.count .adcStart = s.trace.count .adcStart

/-! ### The invariant of every run -/

/-- The invariant holds right after reset. -/
def Obligations.InvariantHoldsAtReset : Prop := Inv State.reset

/-- Every step keeps the invariant: the buffers' canonical form, the calibration window's shape, a legal record behind
`CFG_VALID`, and a sequencing state that is a wait of the operation `CMD` holds. -/
def Obligations.EveryStepKeepsTheInvariant : Prop :=
  ∀ s t : State, Inv s → step s = .next t → Inv t

/-- After every step no wait is over: the block has run as far as its inputs let it. -/
def Obligations.AfterAStepTheBlockWaits : Prop :=
  ∀ s t : State, Inv s → step s = .next t → waitOver t = false

/-! ### WAIT_TICK and SAMPLE -/

/-- WAIT_TICK on an idle block waits while `TOV` is 0; a tick pending already is consumed at once. The step in which
`TOV` is seen clears it, adds 1 to `TICK` modulo 65536 and ends the operation; nothing else of the receiver changes. -/
def Obligations.WaitTickWaitsForTovAndCountsIt : Prop :=
  ∀ s : State,
    (s.flags.busy = false → s.ports.tov = false →
      exec .waitTick s = .next { s with
        flags.busy := true, flags.cmdErr := false, seq.opr := some .waitTick, seq.rxState := .waitTick }) ∧
    (Running .waitTick s → s.seq.rxState = .waitTick → s.ports.tov = false → exec .waitTick s = .next s) ∧
    (s.flags.busy = false → s.ports.tov = true →
      exec .waitTick s = .next { s with
        rx.tick := s.rx.tick + 1, ports.tov := false, trace := s.trace ++ [.tovClr],
        flags.busy := false, flags.cmdErr := false, seq := ended s.seq }) ∧
    (Running .waitTick s → s.seq.rxState = .waitTick → s.ports.tov = true →
      exec .waitTick s = .next { s with
        rx.tick := s.rx.tick + 1, ports.tov := false, trace := s.trace ++ [.tovClr],
        flags.busy := false, seq := ended s.seq })

/-- SAMPLE starts a conversion and waits; when the converter is done the reading goes to `RES`, zero-extended, and
`ADC_DONE` is cleared. A completion left set from before is taken as this conversion's. -/
def Obligations.SampleReturnsTheReading : Prop :=
  ∀ s : State,
    (s.flags.busy = false → s.ports.adcDone = false →
      exec .sample s = .next { s with
        trace := s.trace ++ [.adcStart], flags.busy := true, flags.cmdErr := false,
        seq.opr := some .sample, seq.rxState := .waitAdc }) ∧
    (Running .sample s → s.seq.rxState = .waitAdc → s.ports.adcDone = false → exec .sample s = .next s) ∧
    (Running .sample s → s.seq.rxState = .waitAdc → s.ports.adcDone = true →
      exec .sample s = .next { s with
        res := s.ports.adcData.setWidth 16, ports.adcDone := false, flags.busy := false, seq := ended s.seq }) ∧
    (s.flags.busy = false → s.ports.adcDone = true →
      exec .sample s = .next { s with
        res := s.ports.adcData.setWidth 16, ports.adcDone := false, trace := s.trace ++ [.adcStart],
        flags.busy := false, flags.cmdErr := false, seq := ended s.seq })

/-- `TICK` moves only when a pending tick is consumed, by 1, at most once a step; while no receiver operation runs it
stands still. -/
def Obligations.TickCountsConsumedOverflows : Prop :=
  ∀ s t : State, step s = .next t → (takeInput s).1.ports.rst = false →
    (t.rx.tick = s.rx.tick ∧ t.trace.count .tovClr = (takeInput s).1.trace.count .tovClr) ∨
    (t.rx.tick = s.rx.tick + 1 ∧ (takeInput s).1.ports.tov = true ∧ t.ports.tov = false ∧
      t.trace.count .tovClr = (takeInput s).1.trace.count .tovClr + 1 ∧
      (∃ i, i.isReceiver = true ∧ (s.seq.opr = some i ∨ ∃ w, (takeInput s).2 = some w ∧ decode w = .ok i)))

/-! ### The Level Detector -/

/-- A looping receiver operation starts at its wait for a tick, FULL_PERIOD and the operations over it with
`EDGE_NO = 0`; each of its iterations begins with one tick, then one conversion. A tick that is pending already when the
command comes is consumed at once; an `ADC_DONE` left set from before is taken as this conversion's completion: the
operation goes on as from the wait for the conversion, with no suspension between. -/
def Obligations.ReceiverLoopsTakeATickThenAConversion : Prop :=
  ∀ (i : Instr) (s : State), i = .nextEdge ∨ i = .fullPeriod ∨ i = .readPacket ∨ i = .decodeConfig →
    let started := { s with
      flags.busy := true, flags.cmdErr := false, seq.opr := some i, seq.rxState := .waitTick,
      seq.edgeNo := if i = .nextEdge then s.seq.edgeNo else 0 }
    (s.flags.busy = false →
      (s.ports.tov = false → exec i s = .next started) ∧
      (s.ports.tov = true → s.ports.adcDone = false → exec i s = .next (tickTaken started)) ∧
      (s.ports.tov = true → s.ports.adcDone = true → exec i s = exec i (tickTaken started))) ∧
    (Running i s → s.seq.rxState = .waitTick → s.ports.tov = true →
      (s.ports.adcDone = false → exec i s = .next (tickTaken s)) ∧
      (s.ports.adcDone = true → exec i s = exec i (tickTaken s)))

/-- NEXT_EDGE returns on a crossing: the level flips, the duration since the last flip (modulo 65536) goes to `RES`, the
time of the flip is kept, the sample is counted like any other, and nothing else changes. -/
def Obligations.NextEdgeReturnsTheDurationOnACrossing : Prop :=
  ∀ s : State, Running .nextEdge s → s.seq.rxState = .waitAdc → s.ports.adcDone = true →
    Crossing s.ports.adcData s.rx →
    ∃ t, exec .nextEdge s = .next t ∧ t.flags = { s.flags with busy := false } ∧ t.seq = ended s.seq ∧
      t.res.toNat = (s.rx.tick.toNat + (65536 - s.rx.lastFlip.toNat)) % 65536 ∧
      t.rx.level = !s.rx.level ∧ t.rx.lastFlip = s.rx.tick ∧ SampleCounted s.ports.adcData s.rx t.rx ∧
      t.rx.tick = s.rx.tick ∧ t.rx.ring = s.rx.ring ∧ t.rx.cur = s.rx.cur ∧
      SameOutsideReceiver s t ∧ SameResults s t ∧ t.trace = s.trace ∧ t.ports = { s.ports with adcDone := false }

/-- Without a crossing (a sample at a threshold is none, nor is any sample while detection is off) NEXT_EDGE, and every
operation that runs it, counts the sample and goes round to the next tick, which it consumes at once when `TOV` is up
already. -/
def Obligations.ReceiverLoopsGoOnWithoutACrossing : Prop :=
  ∀ (i : Instr) (s : State), i = .nextEdge ∨ i = .fullPeriod ∨ i = .readPacket ∨ i = .decodeConfig →
    Running i s → s.seq.rxState = .waitAdc → s.ports.adcDone = true → ¬Crossing s.ports.adcData s.rx →
    ∃ t, exec i s = .next t ∧ GoesRound s t ∧ t.flags = s.flags ∧ t.seq = { s.seq with rxState := t.seq.rxState } ∧
      t.res = s.res ∧ t.rx.level = s.rx.level ∧ t.rx.lastFlip = s.rx.lastFlip ∧
      SampleCounted s.ports.adcData s.rx t.rx ∧ t.rx.ring = s.rx.ring ∧ t.rx.cur = s.rx.cur ∧
      SameOutsideReceiver s t ∧ SameResults s t

/-- After folding the samples of a window that began empty, `CAL_MIN` and `CAL_MAX` are their minimum and maximum. -/
def Obligations.FoldedWindowHoldsMinimumAndMaximum : Prop :=
  ∀ (r : Receiver) (smps : List Sample), r.calMin = 1023 → r.calMax = 0 → smps ≠ [] →
    let q := smps.foldl (fun acc x => foldSample x acc) r
    q.calMin ∈ smps ∧ q.calMax ∈ smps ∧ ∀ x ∈ smps, q.calMin ≤ x ∧ x ≤ q.calMax

/-- The window end: for every window the thresholds lie inside it, in order, at 30% and 70% of its range truncated, the
products taken without overflow. -/
def Obligations.WindowEndSetsThresholdsInsideTheWindow : Prop :=
  ∀ r : Receiver, r.calMin ≤ r.calMax → r.calPos.toNat = 999 →
    let q := countSample r
    q.calP2p.toNat = r.calMax.toNat - r.calMin.toNat ∧
    q.thrLow.toNat = r.calMin.toNat + 30 * (r.calMax.toNat - r.calMin.toNat) / 100 ∧
    q.thrHigh.toNat = r.calMin.toNat + 70 * (r.calMax.toNat - r.calMin.toNat) / 100 ∧
    r.calMin ≤ q.thrLow ∧ q.thrLow ≤ q.thrHigh ∧ q.thrHigh ≤ r.calMax ∧
    q.calMin = 1023 ∧ q.calMax = 0 ∧ q.calPos = 0

/-- `LEVEL` and `LAST_FLIP` are mutated only on a crossing, by a step of an operation over NEXT_EDGE, and together. -/
def Obligations.LevelMovesOnlyOnACrossing : Prop :=
  ∀ s t : State, sequencingOk s = true → step s = .next t → (takeInput s).1.ports.rst = false →
    (t.rx.level = s.rx.level ∧ t.rx.lastFlip = s.rx.lastFlip) ∨
    (t.rx.level = (!s.rx.level) ∧ t.rx.lastFlip = (if s.seq.rxState = .waitAdc then s.rx.tick else s.rx.tick + 1) ∧
      Crossing (takeInput s).1.ports.adcData s.rx ∧ (takeInput s).1.ports.adcDone = true)

/-- With detection off at the start of a window's rest, no NEXT_EDGE returns within it: up to the window's end every
tick and sample only folds and counts, and the operation is still waiting after them. -/
def Obligations.NoEdgeWhileDetectionIsOff : Prop :=
  ∀ (s : State) (smps : List Sample),
    Running .nextEdge s → s.seq.rxState = .waitTick → s.ports.tov = false → s.ports.adcDone = false →
    s.ports.rst = false → s.rx.calP2p.toNat ≤ 100 → s.rx.calPos.toNat + smps.length ≤ 1000 →
    s.inbox = smps.flatMap iterationInputs →
    ∃ t, Sys2Proof.core.run (2 * smps.length) s = .next t ∧ Running .nextEdge t ∧ t.seq.rxState = .waitTick ∧
      t.rx.tick = s.rx.tick + BitVec.ofNat 16 smps.length ∧ t.rx.level = s.rx.level ∧ t.rx.lastFlip = s.rx.lastFlip ∧
      t.res = s.res

/-- With detection on, the first sample of a window's rest that crosses the threshold the level asks for ends NEXT_EDGE,
and the duration counts every tick since the last flip. -/
def Obligations.FirstCrossingEndsNextEdge : Prop :=
  ∀ (s : State) (smps : List Sample) (last : Sample),
    Running .nextEdge s → s.seq.rxState = .waitTick → s.ports.tov = false → s.ports.adcDone = false →
    s.ports.rst = false → (∀ x ∈ smps, ¬Crossing x s.rx) → Crossing last s.rx →
    s.rx.calPos.toNat + smps.length < 1000 →
    s.inbox = (smps ++ [last]).flatMap iterationInputs →
    ∃ t, Sys2Proof.core.run (2 * (smps.length + 1)) s = .next t ∧ t.flags.busy = false ∧
      t.rx.tick = s.rx.tick + BitVec.ofNat 16 (smps.length + 1) ∧ t.rx.level = (!s.rx.level) ∧
      t.rx.lastFlip = t.rx.tick ∧ t.res = t.rx.tick - s.rx.lastFlip ∧ t.inbox = []

/-! ### The Period Measurer -/

/-- The first edge inside FULL_PERIOD, run alone or by READ_PACKET or DECODE_CONFIG, is kept in `D1`; `RES` is not
written and the second NEXT_EDGE begins, its first tick consumed at once when `TOV` is up already. -/
def Obligations.FirstEdgeOfAPeriodIsKept : Prop :=
  ∀ (i : Instr) (s : State), i = .fullPeriod ∨ i = .readPacket ∨ i = .decodeConfig →
    Running i s → s.seq.rxState = .waitAdc → s.ports.adcDone = true →
    Crossing s.ports.adcData s.rx → s.seq.edgeNo = 0 →
    ∃ t, exec i s = .next t ∧ GoesRound s t ∧ t.flags = s.flags ∧
      t.seq = { s.seq with rxState := t.seq.rxState, edgeNo := 1, d1 := s.rx.tick - s.rx.lastFlip } ∧
      t.res = s.res ∧ t.rx.level = !s.rx.level ∧ t.rx.lastFlip = s.rx.tick ∧
      SampleCounted s.ports.adcData s.rx t.rx ∧ t.rx.ring = s.rx.ring ∧ t.rx.cur = s.rx.cur ∧
      SameOutsideReceiver s t ∧ SameResults s t

/-- The second edge ends FULL_PERIOD: `RES` is the sum of the two half-periods modulo 65536. -/
def Obligations.FullPeriodReturnsTheSumModulo65536 : Prop :=
  ∀ s : State, Running .fullPeriod s → s.seq.rxState = .waitAdc → s.ports.adcDone = true →
    Crossing s.ports.adcData s.rx → s.seq.edgeNo = 1 →
    ∃ t, exec .fullPeriod s = .next t ∧ t.flags = { s.flags with busy := false } ∧ t.seq = ended s.seq ∧
      t.res.toNat = (s.seq.d1.toNat + (s.rx.tick - s.rx.lastFlip).toNat) % 65536 ∧
      t.rx.level = !s.rx.level ∧ t.rx.lastFlip = s.rx.tick ∧
      SampleCounted s.ports.adcData s.rx t.rx ∧ t.rx.tick = s.rx.tick ∧ t.rx.ring = s.rx.ring ∧ t.rx.cur = s.rx.cur ∧
      SameOutsideReceiver s t ∧ SameResults s t ∧ t.trace = s.trace ∧ t.ports = { s.ports with adcDone := false }

/-- A bit's cell that begins with its dark half (`CELL_PHASE = dark_first`) measures as its whole length, whatever its
duty cycle: from the flip on its first dark sample, FULL_PERIOD returns on the first dark sample of the next cell. -/
def Obligations.DarkFirstCellMeasuresAsItsLength : Prop :=
  ∀ (s : State) (dark bright : Nat) (low high : Sample),
    Running .fullPeriod s → s.seq.rxState = .waitTick → s.seq.edgeNo = 0 → s.ports.tov = false →
    s.ports.adcDone = false → s.ports.rst = false → s.rx.level = false → s.rx.lastFlip = s.rx.tick →
    100 < s.rx.calP2p.toNat → low.toNat < s.rx.thrLow.toNat → s.rx.thrHigh.toNat < high.toNat →
    s.rx.thrLow.toNat ≤ s.rx.thrHigh.toNat →
    1 ≤ dark → 1 ≤ bright → s.rx.calPos.toNat + dark + bright ≤ 1000 →
    s.inbox = ((cellSamples .darkFirst dark bright low high).drop 1 ++ [low]).flatMap iterationInputs →
    ∃ t, Sys2Proof.core.run (2 * (dark + bright)) s = .next t ∧ t.flags.busy = false ∧
      t.res = BitVec.ofNat 16 (dark + bright) ∧ t.rx.level = false ∧ t.rx.lastFlip = t.rx.tick

/-! ### The Framer -/

/-- The depth check on the truncated thresholds: it passes for a difference of 65 and of 67 and more, and fails for 64
and less and for 66. -/
def Obligations.DepthCheckAcceptSet : Prop :=
  ∀ window : List Tick,
    params.frDepthMin ≤ splitHigh window - splitLow window ↔
      (maxOf window - minOf window = 65 ∨ 67 ≤ maxOf window - minOf window)

/-- The framer releases a packet exactly when the depth check passes, every entry is classified, entry `i` (0 the
oldest) being bit `31 - i` of the packet, and the trailer is the bit-reversed CRC of the payload. -/
def Obligations.FramedPacketIsTheClassifiedRing : Prop :=
  ∀ (window all : List Tick) (p : Word), all.length = 32 →
    (framePacket window all = some p ↔
      20 ≤ splitHigh window - splitLow window ∧
      (∀ (k : Nat) (hk : k < all.length),
        (splitHigh window ≤ all[k].toNat ∧ p.getLsbD (31 - k) = true) ∨
        (all[k].toNat ≤ splitLow window ∧ p.getLsbD (31 - k) = false)) ∧
      (crc16 [p.extractLsb' 24 8, p.extractLsb' 16 8]).extractLsb' 8 8 = bitrev8 (p.extractLsb' 8 8) ∧
      (crc16 [p.extractLsb' 24 8, p.extractLsb' 16 8]).extractLsb' 0 8 = bitrev8 (p.extractLsb' 0 8))

/-- The packet of any payload frames: if the thresholds pass the depth check and every entry of the ring stands on the
side of its bit, the framer returns that packet, trailer included. -/
def Obligations.EveryPayloadFramesWhenItsPeriodsAreClear : Prop :=
  ∀ (r : Receiver) (b0 b1 : Byte),
    20 ≤ splitHigh (newest r) - splitLow (newest r) →
    (∀ k : BitVec 5, if (packetOf b0 b1).getLsbD (31 - k.toNat) = true
      then splitHigh (newest r) ≤ (ringGet r.ring (r.cur + k)).toNat
      else (ringGet r.ring (r.cur + k)).toNat ≤ splitLow (newest r)) →
    framePacket (newest r) (oldestFirst r) = some (packetOf b0 b1)

/-- No payload and trailer that match still match after one bit of the packet is flipped. -/
def Obligations.SingleBitCorruptionFailsTheChecksum : Prop :=
  ∀ (b0 b1 : Byte) (k : Nat), k < 32 →
    let p := packetOf b0 b1
    let q := p ^^^ BitVec.twoPow 32 k
    crcMatches (p.extractLsb' 24 8) (p.extractLsb' 16 8) (p.extractLsb' 8 8) (p.extractLsb' 0 8) = true ∧
    crcMatches (q.extractLsb' 24 8) (q.extractLsb' 16 8) (q.extractLsb' 8 8) (q.extractLsb' 0 8) = false

/-- The ring write: the newest entry is the one written, the oldest the one at the cursor, every other entry keeps its
place in the order, one older. -/
def Obligations.RingWriteReplacesTheOldestEntry : Prop :=
  ∀ (r : Receiver) (m : Tick),
    oldestFirst (pushPeriod m r) = (oldestFirst r).drop 1 ++ [m] ∧
    ringGet (pushPeriod m r).ring ((pushPeriod m r).cur - 1) = m ∧
    (oldestFirst r).length = 32 ∧ (newest r).length = 8 ∧
    newest r = ((oldestFirst r).drop 24).reverse

/-- READ_PACKET returns when a candidate is valid: the period has gone into the ring, `PKT` is the candidate, and `RES`,
`CFG` and `CFG_VALID` are as they were. -/
def Obligations.ReadPacketReturnsAValidCandidate : Prop :=
  ∀ (s : State) (p : Word), Running .readPacket s → s.seq.rxState = .waitAdc → s.ports.adcDone = true →
    Crossing s.ports.adcData s.rx → s.seq.edgeNo = 1 →
    (let r := pushPeriod (s.seq.d1 + (s.rx.tick - s.rx.lastFlip)) s.rx
     framePacket (newest r) (oldestFirst r) = some p) →
    ∃ t, exec .readPacket s = .next t ∧ t.flags = { s.flags with busy := false } ∧ t.seq = ended s.seq ∧
      t.pkt = p ∧ t.res = s.res ∧ t.cfg = s.cfg ∧
      t.rx.ring = ringSet s.rx.ring s.rx.cur (s.seq.d1 + (s.rx.tick - s.rx.lastFlip)) ∧ t.rx.cur = s.rx.cur + 1 ∧
      t.rx.level = !s.rx.level ∧ t.rx.lastFlip = s.rx.tick ∧ t.rx.tick = s.rx.tick ∧
      SampleCounted s.ports.adcData s.rx t.rx ∧ SameOutsideReceiver s t ∧ t.trace = s.trace ∧
      t.ports = { s.ports with adcDone := false }

/-- Any other candidate is discarded, in READ_PACKET run alone or by DECODE_CONFIG: the period stays in the ring, nothing
else tells of it, and the next FULL_PERIOD begins, its first tick consumed at once when `TOV` is up already. -/
def Obligations.ReadPacketDiscardsSilently : Prop :=
  ∀ (i : Instr) (s : State), i = .readPacket ∨ i = .decodeConfig →
    Running i s → s.seq.rxState = .waitAdc → s.ports.adcDone = true →
    Crossing s.ports.adcData s.rx → s.seq.edgeNo = 1 →
    (let r := pushPeriod (s.seq.d1 + (s.rx.tick - s.rx.lastFlip)) s.rx
     framePacket (newest r) (oldestFirst r) = none) →
    ∃ t, exec i s = .next t ∧ GoesRound s t ∧ t.flags = s.flags ∧
      t.seq = { s.seq with rxState := t.seq.rxState, edgeNo := 0 } ∧
      t.pkt = s.pkt ∧ t.res = s.res ∧ t.cfg = s.cfg ∧
      t.rx.ring = ringSet s.rx.ring s.rx.cur (s.seq.d1 + (s.rx.tick - s.rx.lastFlip)) ∧ t.rx.cur = s.rx.cur + 1 ∧
      t.rx.level = !s.rx.level ∧ t.rx.lastFlip = s.rx.tick ∧
      SampleCounted s.ports.adcData s.rx t.rx ∧ SameOutsideReceiver s t

/-! ### The Configuration Decoder -/

/-- DECODE in one step: the record is written when byte 0 bit 7 is 0, both voltage indices are at most 4 and both
current codes are not 0; else `CFG_VALID = 0` and `CFG` stays. Bytes 2 and 3 are not read. -/
def Obligations.DecodeWritesTheRecordOrDiscards : Prop :=
  ∀ s : State, s.flags.busy = false →
    ((s.pkt.getLsbD 31 = false ∧ (pktV1 s.pkt).toNat ≤ 4 ∧ pktI1 s.pkt ≠ 0 ∧ (pktV2 s.pkt).toNat ≤ 4 ∧
        pktI2 s.pkt ≠ 0) →
      ∃ c : CfgRecord,
        exec .decode s = .next { s with
          cfg := c, flags.cfgValid := true, flags.busy := false, flags.cmdErr := false, seq := ended s.seq } ∧
        c.v1.toNat = 20 * [5, 9, 12, 15, 20].getD (pktV1 s.pkt).toNat 0 ∧ c.i1 = pktI1 s.pkt ∧
        c.v2.toNat = 20 * [5, 9, 12, 15, 20].getD (pktV2 s.pkt).toNat 0 ∧ c.i2 = pktI2 s.pkt ∧
        c.reqPd = s.pkt.getLsbD 23) ∧
    ((s.pkt.getLsbD 31 = true ∨ 4 < (pktV1 s.pkt).toNat ∨ pktI1 s.pkt = 0 ∨ 4 < (pktV2 s.pkt).toNat ∨
        pktI2 s.pkt = 0) →
      exec .decode s = .next { s with
        flags.cfgValid := false, flags.busy := false, flags.cmdErr := false, seq := ended s.seq })

/-- DECODE_CONFIG returns when a framed packet decodes: `PKT`, `CFG` and `CFG_VALID = 1`; `RES` is not written. -/
def Obligations.DecodeConfigReturnsTheRecord : Prop :=
  ∀ (s : State) (p : Word) (c : CfgRecord), Running .decodeConfig s → s.seq.rxState = .waitAdc →
    s.ports.adcDone = true → Crossing s.ports.adcData s.rx → s.seq.edgeNo = 1 →
    (let r := pushPeriod (s.seq.d1 + (s.rx.tick - s.rx.lastFlip)) s.rx
     framePacket (newest r) (oldestFirst r) = some p) →
    recordOf p = some c →
    ∃ t, exec .decodeConfig s = .next t ∧ t.flags = { s.flags with busy := false, cfgValid := true } ∧
      t.seq = ended s.seq ∧ t.pkt = p ∧ t.cfg = c ∧ t.res = s.res ∧
      t.rx.ring = ringSet s.rx.ring s.rx.cur (s.seq.d1 + (s.rx.tick - s.rx.lastFlip)) ∧ t.rx.cur = s.rx.cur + 1 ∧
      t.rx.level = !s.rx.level ∧ t.rx.lastFlip = s.rx.tick ∧ t.rx.tick = s.rx.tick ∧
      SampleCounted s.ports.adcData s.rx t.rx ∧ SameOutsideReceiver s t ∧ t.trace = s.trace ∧
      t.ports = { s.ports with adcDone := false }

/-- A framed packet that does not decode is not returned: `PKT` has passed through it, `CFG` is untouched, and another
packet is asked for, the first tick consumed at once when `TOV` is up already. -/
def Obligations.DecodeConfigAsksForAnotherPacket : Prop :=
  ∀ (s : State) (p : Word), Running .decodeConfig s → s.seq.rxState = .waitAdc →
    s.ports.adcDone = true → Crossing s.ports.adcData s.rx → s.seq.edgeNo = 1 →
    (let r := pushPeriod (s.seq.d1 + (s.rx.tick - s.rx.lastFlip)) s.rx
     framePacket (newest r) (oldestFirst r) = some p) →
    recordOf p = none →
    ∃ t, exec .decodeConfig s = .next t ∧ GoesRound s t ∧ t.flags = { s.flags with cfgValid := false } ∧
      t.seq = { s.seq with rxState := t.seq.rxState, edgeNo := 0 } ∧ t.pkt = p ∧ t.cfg = s.cfg ∧ t.res = s.res ∧
      t.rx.ring = ringSet s.rx.ring s.rx.cur (s.seq.d1 + (s.rx.tick - s.rx.lastFlip)) ∧ t.rx.cur = s.rx.cur + 1 ∧
      t.rx.level = !s.rx.level ∧ t.rx.lastFlip = s.rx.tick ∧
      SampleCounted s.ports.adcData s.rx t.rx ∧ SameOutsideReceiver s t

/-- `CFG` is changed by nothing but a decoding that succeeds, all its fields at once, from the packet in `PKT`. -/
def Obligations.CfgChangesOnlyByASuccessfulDecode : Prop :=
  ∀ s t : State, step s = .next t → (takeInput s).1.ports.rst = false →
    t.cfg = s.cfg ∨ (recordOf t.pkt = some t.cfg ∧ t.cfg.legal = true ∧ t.flags.cfgValid = true)

/-! ### The Bus Master Engine -/

/-- The start of a transaction: the operands are latched, the address byte with the write bit goes out when there are
bytes to write, else the address byte with the read bit. REG_WRITE is a 2-byte write. -/
def Obligations.TransactionStartsWithItsAddressByte : Prop :=
  ∀ (s : State) (addr : BusAddr) (wlen rlen reg val : Byte), s.flags.busy = false →
    (wlen ≠ 0 →
      exec (.busXact addr wlen rlen) s = .next { s with
        flags.busy := true, flags.cmdErr := false, seq.opr := some (.busXact addr wlen rlen),
        seq.xaddr := addr, seq.xwlen := wlen, seq.xrlen := rlen, seq.bmeState := .addrW,
        ports.bus.wif := false, ports.bus.rif := false,
        trace := s.trace ++ [.bus (.pAddr (addressByte addr false))] }) ∧
    (wlen = 0 → rlen ≠ 0 →
      exec (.busXact addr wlen rlen) s = .next { s with
        flags.busy := true, flags.cmdErr := false, seq.opr := some (.busXact addr wlen rlen),
        seq.xaddr := addr, seq.xwlen := wlen, seq.xrlen := rlen, seq.bmeState := .addrR, seq.xok := true,
        ports.bus.wif := false, ports.bus.rif := false,
        trace := s.trace ++ [.bus (.pAddr (addressByte addr true))] }) ∧
    exec (.regWrite addr reg val) s = .next { s with
      flags.busy := true, flags.cmdErr := false, seq.opr := some (.regWrite addr reg val),
      seq.xaddr := addr, seq.xwlen := 2, seq.xrlen := 0, seq.bmeState := .addrW,
      ports.bus.wif := false, ports.bus.rif := false,
      trace := s.trace ++ [.bus (.pAddr (addressByte addr false))] }

/-- The address byte: the address in bits 7:1, the direction in bit 0, 1 for read. -/
def Obligations.AddressByteCarriesAddressAndDirection : Prop :=
  ∀ (addr : BusAddr) (read : Bool),
    (addressByte addr read).toNat = 2 * addr.toNat + (if read then 1 else 0)

/-- A fault status in the sample that ends the write address phase: `P_CLRERR`, no `P_STOP`, failure; `RXACK` is not
looked at. -/
def Obligations.WriteAddressFaultFailsWithoutStop : Prop :=
  ∀ (i : Instr) (s : State), i.isReceiver = false → Running i s → s.seq.bmeState = .addrW →
    (s.ports.bus.wif = true ∨ s.ports.bus.rif = true) →
    (s.ports.bus.arblost = true ∨ s.ports.bus.buserr = true) →
    exec i s = .next { s with
      flags.busy := false, flags.busOk := false, seq := ended s.seq,
      ports.bus := { s.ports.bus with wif := false, rif := false, arblost := false, buserr := false },
      trace := s.trace ++ [.bus .pClrerr] }

/-- Without a fault the write address phase is followed by byte 0, whatever `RXACK` shows. -/
def Obligations.WriteLoopBeginsAfterAClearAddress : Prop :=
  ∀ (s : State) (addr : BusAddr) (wlen rlen reg val : Byte), s.seq.bmeState = .addrW →
    (s.ports.bus.wif = true ∨ s.ports.bus.rif = true) →
    s.ports.bus.arblost = false → s.ports.bus.buserr = false →
    (Running (.busXact addr wlen rlen) s →
      exec (.busXact addr wlen rlen) s = .next { s with
        seq.bmeState := .wrByte, seq.bidx := 0, ports.bus.wif := false, ports.bus.rif := false,
        trace := s.trace ++ [.bus (.pWdata (s.wbuf.read 0))] }) ∧
    (Running (.regWrite addr reg val) s →
      exec (.regWrite addr reg val) s = .next { s with
        seq.bmeState := .wrByte, seq.bidx := 0, ports.bus.wif := false, ports.bus.rif := false,
        trace := s.trace ++ [.bus (.pWdata reg)] })

/-- A written byte that is not acknowledged ends the transaction with `P_STOP` and failure, the last byte no
exception. -/
def Obligations.NackStopsAndFails : Prop :=
  ∀ (i : Instr) (s : State), i.isReceiver = false → Running i s → s.seq.bmeState = .wrByte →
    s.ports.bus.wif = true → s.ports.bus.rxack = true →
    exec i s = .next { s with
      flags.busy := false, flags.busOk := false, seq := ended s.seq,
      ports.bus.wif := false, ports.bus.rif := false, trace := s.trace ++ [.bus .pStop] }

/-- An acknowledged byte that is not the last is followed by the next byte; the last one by the read address phase, with
no `P_STOP` between, when bytes are to be read, and by `P_STOP` and success when none are. So BUS_XACT and REG_WRITE
complete. -/
def Obligations.AcknowledgedByteGoesOnOrEndsTheTransaction : Prop :=
  ∀ (s : State) (addr : BusAddr) (wlen rlen reg val : Byte), s.seq.bmeState = .wrByte →
    s.ports.bus.wif = true → s.ports.bus.rxack = false →
    (s.seq.bidx.toNat + 1 < s.seq.xwlen.toNat →
      (Running (.busXact addr wlen rlen) s →
        exec (.busXact addr wlen rlen) s = .next { s with
          seq.bidx := s.seq.bidx + 1, ports.bus.wif := false, ports.bus.rif := false,
          trace := s.trace ++ [.bus (.pWdata (s.wbuf.read (s.seq.bidx.toNat + 1)))] }) ∧
      (Running (.regWrite addr reg val) s →
        exec (.regWrite addr reg val) s = .next { s with
          seq.bidx := s.seq.bidx + 1, ports.bus.wif := false, ports.bus.rif := false,
          trace := s.trace ++ [.bus (.pWdata val)] })) ∧
    (s.seq.bidx.toNat + 1 = s.seq.xwlen.toNat → s.seq.xrlen ≠ 0 → Running (.busXact addr wlen rlen) s →
      exec (.busXact addr wlen rlen) s = .next { s with
        seq.bmeState := .addrR, seq.xok := true, ports.bus.wif := false, ports.bus.rif := false,
        trace := s.trace ++ [.bus (.pAddr (addressByte s.seq.xaddr true))] }) ∧
    (s.seq.bidx.toNat + 1 = s.seq.xwlen.toNat → s.seq.xrlen = 0 →
      (Running (.busXact addr wlen rlen) s →
        exec (.busXact addr wlen rlen) s = .next { s with
          flags.busy := false, flags.busOk := true, seq := ended { s.seq with xok := true },
          ports.bus.wif := false, ports.bus.rif := false, trace := s.trace ++ [.bus .pStop] }) ∧
      (Running (.regWrite addr reg val) s →
        exec (.regWrite addr reg val) s = .next { s with
          flags.busy := false, flags.busOk := true, seq := ended { s.seq with xok := true },
          ports.bus.wif := false, ports.bus.rif := false, trace := s.trace ++ [.bus .pStop] }))

/-- A fault status in the sample that ends the read address phase: `P_CLRERR`, then `P_STOP`, failure, no byte read. -/
def Obligations.ReadAddressFaultFailsWithStop : Prop :=
  ∀ (s : State) (addr : BusAddr) (wlen rlen : Byte), Running (.busXact addr wlen rlen) s →
    s.seq.bmeState = .addrR → (s.ports.bus.wif = true ∨ s.ports.bus.rif = true) →
    (s.ports.bus.arblost = true ∨ s.ports.bus.buserr = true) →
    exec (.busXact addr wlen rlen) s = .next { s with
      flags.busy := false, flags.busOk := false, seq := ended { s.seq with xok := false },
      ports.bus := { s.ports.bus with wif := false, rif := false, arblost := false, buserr := false },
      trace := s.trace ++ [.bus .pClrerr, .bus .pStop] }

/-- A read byte is captured when `RIF` is seen; with more bytes pending it is acknowledged, the last one is answered
with NACK and followed by `P_STOP` in the same step, and the transaction ends with the outcome so far. No other byte of
`RBUF` changes. -/
def Obligations.ReadByteIsCapturedAndAnswered : Prop :=
  ∀ (s : State) (addr : BusAddr) (wlen rlen : Byte), Running (.busXact addr wlen rlen) s →
    s.seq.bmeState = .rdByte → s.ports.bus.rif = true → s.rbuf.wf →
    ∃ t, exec (.busXact addr wlen rlen) s = .next t ∧
      t.rbuf.read s.seq.bidx.toNat = s.ports.bus.rdata ∧
      (∀ j, j ≠ s.seq.bidx.toNat → t.rbuf.read j = s.rbuf.read j) ∧ SameOutsideBus s t ∧
      (if s.seq.bidx.toNat + 1 < s.seq.xrlen.toNat
        then t.trace = s.trace ++ [.bus (.pRxnext false)] ∧ t.flags = s.flags ∧
          t.seq = { s.seq with bidx := s.seq.bidx + 1 }
        else t.trace = s.trace ++ [.bus (.pRxnext true), .bus .pStop] ∧
          t.flags = { s.flags with busy := false, busOk := s.seq.xok } ∧ t.seq = ended s.seq)

/-- A read address phase that ends without a fault leads to the read loop with no port command before its first wait;
when it ended with `RIF` the first byte is taken from that same sample, with no suspension. -/
def Obligations.ReadAddressSampleCanServeTheFirstByte : Prop :=
  ∀ (s : State) (addr : BusAddr) (wlen rlen : Byte), Running (.busXact addr wlen rlen) s →
    s.seq.bmeState = .addrR → s.ports.bus.arblost = false → s.ports.bus.buserr = false →
    (s.ports.bus.wif = true → s.ports.bus.rif = false →
      exec (.busXact addr wlen rlen) s = .next { s with seq.bmeState := .rdByte, seq.bidx := 0 }) ∧
    (s.ports.bus.rif = true →
      exec (.busXact addr wlen rlen) s =
        exec (.busXact addr wlen rlen) { s with seq.bmeState := .rdByte, seq.bidx := 0 })

/-- Whole write-only transactions, from the command word to the end, whatever the target, the length and the bytes:
every byte acknowledged gives the trace `W, P_STOP` and success, with `RBUF`, `WBUF` and the receiver unchanged. -/
def Obligations.AcknowledgedWriteRunsToSuccess : Prop :=
  ∀ (s : State) (addr : BusAddr) (wlen : Byte) (st : BusSample) (acks : List BusSample),
    s.flags.busy = false → s.ports.rst = false → wlen ≠ 0 → addressClear st = true →
    acks.length = wlen.toNat → (∀ x ∈ acks, acknowledged x = true) →
    s.inbox = .hostWrite .reg 8 (encode (.busXact addr wlen 0)) :: (st :: acks).map .busSample →
    ∃ t, Sys2Proof.core.run (wlen.toNat + 2) s = .next t ∧ t.flags.busy = false ∧ t.flags.busOk = true ∧
      t.trace = s.trace ++ (writePart addr (bufferBytes s.wbuf wlen.toNat) ++ [BusCmd.pStop]).map PortOut.bus ∧
      t.rbuf = s.rbuf ∧ t.wbuf = s.wbuf ∧ t.rx = s.rx ∧ t.inbox = []

/-- A NACK on write byte `k` of a transaction, whatever it was to write and read after it: the bytes up to `k` have been
handed over, then `P_STOP`; failure; no byte of `RBUF` written. -/
def Obligations.NackAtAByteAbandonsTheTransaction : Prop :=
  ∀ (s : State) (addr : BusAddr) (wlen rlen : Byte) (st nack : BusSample) (acks : List BusSample),
    s.flags.busy = false → s.ports.rst = false → addressClear st = true →
    acks.length < wlen.toNat → (∀ x ∈ acks, acknowledged x = true) → nack.wif = true → nack.rxack = true →
    s.inbox = .hostWrite .reg 8 (encode (.busXact addr wlen rlen)) :: (st :: acks ++ [nack]).map .busSample →
    ∃ t, Sys2Proof.core.run (acks.length + 3) s = .next t ∧ t.flags.busy = false ∧ t.flags.busOk = false ∧
      t.trace = s.trace ++ (writePart addr (bufferBytes s.wbuf (acks.length + 1)) ++ [BusCmd.pStop]).map PortOut.bus ∧
      t.rbuf = s.rbuf ∧ t.wbuf = s.wbuf ∧ t.rx = s.rx ∧ t.inbox = []

/-- Whole read-only transactions: a read of `n` bytes from a target that delivers them gives `P_ADDR`, `n − 1` ACKs, one
NACK, `P_STOP` and success; `RBUF[i]` is byte `i` for `i` below `n` and every other byte is as before. -/
def Obligations.ReadOfNBytesFillsTheBuffer : Prop :=
  ∀ (s : State) (addr : BusAddr) (rlen : Byte) (st : BusSample) (reads : List BusSample),
    s.flags.busy = false → s.ports.rst = false → rlen ≠ 0 → s.rbuf.wf →
    addressClear st = true → st.rif = false → reads.length = rlen.toNat → (∀ x ∈ reads, x.rif = true) →
    s.inbox = .hostWrite .reg 8 (encode (.busXact addr 0 rlen)) :: (st :: reads).map .busSample →
    ∃ t, Sys2Proof.core.run (rlen.toNat + 2) s = .next t ∧ t.flags.busy = false ∧ t.flags.busOk = true ∧
      t.trace = s.trace ++ ((BusCmd.pAddr (addressByte addr true) ::
        List.replicate (rlen.toNat - 1) (BusCmd.pRxnext false)) ++ [BusCmd.pRxnext true, BusCmd.pStop]).map PortOut.bus ∧
      (∀ (k : Nat) (hk : k < reads.length), t.rbuf.read k = reads[k].rdata) ∧
      (∀ k, reads.length ≤ k → t.rbuf.read k = s.rbuf.read k) ∧
      t.wbuf = s.wbuf ∧ t.rx = s.rx ∧ t.inbox = []

/-- REG_WRITE is the write of `REG`, `VAL` through `WBUF` in everything but `WBUF` itself: under any samples whatever,
at every moment the two runs agree on the trace, `BUSY`, `BUS_OK`, `RBUF` and the receiver, and REG_WRITE leaves `WBUF`
alone. -/
def Obligations.RegWriteIsATwoByteWrite : Prop :=
  ∀ (s : State) (addr : BusAddr) (reg val : Byte) (samples : List BusSample) (n : Nat),
    s.flags.busy = false → s.ports.rst = false → s.wbuf.wf →
    ∃ t u,
      Sys2Proof.core.run n { s with
        inbox := .hostWrite .reg 8 (encode (.regWrite addr reg val)) :: samples.map .busSample } = .next t ∧
      Sys2Proof.core.run n { s with
        wbuf := (s.wbuf.write 0 reg).write 1 val,
        inbox := .hostWrite .reg 8 (encode (.busXact addr 2 0)) :: samples.map .busSample } = .next u ∧
      t.trace = u.trace ∧ t.flags = u.flags ∧ t.rbuf = u.rbuf ∧ t.rx = u.rx ∧ t.ports = u.ports ∧
      t.wbuf = s.wbuf ∧ u.wbuf = (s.wbuf.write 0 reg).write 1 val

/-! ### One unit at a time -/

/-- No receiver operation touches the bus: its steps issue no port command and leave `BUS_OK`, both buffers, `CMD` and
the Bus port alone. -/
def Obligations.ReceiverNeverTouchesTheBus : Prop :=
  ∀ (i : Instr) (s t : State), i.isReceiver = true → exec i s = .next t → SameOutsideReceiver s t

/-- No bus operation touches the receiver: `TICK` stands still, no sample is taken, no pulse comes on `tov_clr` or
`adc_start`, and `RES`, `PKT`, `CFG`, `WBUF` keep their values; only the latched operands, `BUS_OK`, `RBUF` and the Bus port move. -/
def Obligations.BusEngineNeverTouchesTheReceiver : Prop :=
  ∀ (i : Instr) (s t : State), i.isReceiver = false → exec i s = .next t → SameOutsideBus s t

/-- The elements of the sequencing state without a reset value are written before they are read, in every operation:
whatever they hold on an idle block, every run from there, under any inputs, shows the same in everything else. -/
def Obligations.TransientStateIsWrittenBeforeItIsRead : Prop :=
  ∀ (s : State) (q : Sequencing) (n : Nat), s.flags.busy = false → s.seq.opr = none →
    ∃ t u, Sys2Proof.core.run n s = .next t ∧
      Sys2Proof.core.run n { s with
        seq := { q with opr := none, rxState := s.seq.rxState, bmeState := s.seq.bmeState } } = .next u ∧
      u.rx = t.rx ∧ u.res = t.res ∧ u.pkt = t.pkt ∧ u.cfg = t.cfg ∧ u.cmd = t.cmd ∧ u.wbuf = t.wbuf ∧
      u.rbuf = t.rbuf ∧ u.flags = t.flags ∧ u.ports = t.ports ∧ u.inbox = t.inbox ∧ u.trace = t.trace ∧
      u.seq.opr = t.seq.opr ∧ u.seq.rxState = t.seq.rxState ∧ u.seq.bmeState = t.seq.bmeState

/-! ### The Host port -/

/-- A host read outside its space returns 0; a host write there, of a read-only register, of `RBUF` or of `RING` is
ignored, and so is every host write while `BUSY = 1`. In a step of a block at rest the read shows its 0 and the write is
consumed, and nothing else changes. -/
def Obligations.HostAccessElsewhereReachesNothing : Prop :=
  ∀ (s : State) (sp : Space) (index : Nat) (value : Word),
    (outsideSpace sp index = true → hostReadValue sp index s = 0) ∧
    (WriteIgnored sp index s → hostWrite sp index value s = (s, none)) ∧
    (AtRest s → s.ports.rst = false → ∀ rest,
      (outsideSpace sp index = true → s.inbox = .hostRead sp index :: rest →
        step s = .next { s with inbox := rest, trace := s.trace ++ [.hostData 0] }) ∧
      (WriteIgnored sp index s → s.inbox = .hostWrite sp index value :: rest →
        step s = .next { s with inbox := rest }))

/-- The host writes `WBUF` byte by byte and `PKT`, DECODE's operand, whole, while the block is idle. A `WBUF` byte written
reads back, every other byte of the buffer is as before, and nothing else changes; `PKT` takes all 32 bits, and nothing
else changes. Neither presents a command, and the step in which the input comes has just that effect. -/
def Obligations.HostWritesReachABufferByteAndThePacket : Prop :=
  ∀ (s : State) (value : Word), s.flags.busy = false →
    (∀ index, s.wbuf.wf → index < 256 →
      let t := (hostWrite .wbuf index value s).1
      hostReadValue .wbuf index t = (value.setWidth 8 : Byte).setWidth 32 ∧
      (∀ j, j ≠ index → hostReadValue .wbuf j t = hostReadValue .wbuf j s) ∧ t = { s with wbuf := t.wbuf } ∧
      (hostWrite .wbuf index value s).2 = none ∧
      (∀ rest, s.seq.opr = none → s.ports.rst = false → s.inbox = .hostWrite .wbuf index value :: rest →
        step s = .next { t with inbox := rest })) ∧
    hostWrite .reg 2 value s = ({ s with pkt := value }, none) ∧
    (∀ rest, s.seq.opr = none → s.ports.rst = false → s.inbox = .hostWrite .reg 2 value :: rest →
      step s = .next { s with inbox := rest, pkt := value })

/-- `STATUS` as the host reads it: each flag at its bit, `DET_EN` the view of `CAL_P2P`, the reserved bits 0. A step of a
block at rest whose input is that read shows this value and changes nothing else. -/
def Obligations.StatusShowsEachFlagAtItsBit : Prop :=
  ∀ s : State,
    let w := hostReadValue .reg 0 s
    w.getLsbD 0 = s.flags.busy ∧ w.getLsbD 1 = s.flags.busOk ∧ w.getLsbD 2 = s.flags.cmdErr ∧
    w.getLsbD 3 = s.rx.level ∧ w.getLsbD 4 = decide (100 < s.rx.calP2p.toNat) ∧ w.getLsbD 5 = s.flags.cfgValid ∧
    (∀ k, 6 ≤ k → w.getLsbD k = false) ∧
    (∀ rest, AtRest s → s.ports.rst = false → s.inbox = .hostRead .reg 0 :: rest →
      step s = .next { s with inbox := rest, trace := s.trace ++ [.hostData w] })

/-- The other elements as the host reads them: `RES`, `PKT`, `CFG`, the views and `CMD`, each field at its bits, a
register number of 9 or more reading 0; the bytes of both buffers and the ring's entries, zero-extended. The views are
read only. A host read, at any time, shows the value and changes nothing else; so does the step of a block at rest. That
an input of a step carries the read and the trace keeps its value are the model's choices (log entries 1 and 2). -/
def Obligations.HostReadsShowTheRegistersAndTheBuffers : Prop :=
  ∀ s : State,
    hostReadValue .reg 1 s = s.res.setWidth 32 ∧ hostReadValue .reg 2 s = s.pkt ∧ hostReadValue .reg 8 s = s.cmd ∧
    (hostReadValue .reg 3 s).toNat = s.cfg.v1.toNat + 2 ^ 9 * s.cfg.i1.toNat + 2 ^ 13 * s.cfg.v2.toNat +
      2 ^ 22 * s.cfg.i2.toNat + 2 ^ 26 * s.cfg.reqPd.toNat ∧
    (hostReadValue .reg 4 s).toNat = s.rx.tick.toNat ∧
    (hostReadValue .reg 5 s).toNat = s.rx.thrLow.toNat + 2 ^ 10 * s.rx.thrHigh.toNat + 2 ^ 20 * s.rx.calP2p.toNat ∧
    (hostReadValue .reg 6 s).toNat = s.rx.calMin.toNat + 2 ^ 10 * s.rx.calMax.toNat + 2 ^ 20 * s.rx.calPos.toNat ∧
    (hostReadValue .reg 7 s).toNat = s.rx.cur.toNat + 2 ^ 16 * s.rx.lastFlip.toNat ∧
    (∀ n, 9 ≤ n → hostReadValue .reg n s = 0) ∧
    (∀ n v, 4 ≤ n → n ≤ 7 → hostWrite .reg n v s = (s, none)) ∧
    (∀ k, k < 256 → (hostReadValue .wbuf k s).toNat = (s.wbuf.read k).toNat ∧
      (hostReadValue .rbuf k s).toNat = (s.rbuf.read k).toNat) ∧
    (∀ k : BitVec 5, (hostReadValue .ring k.toNat s).toNat = (ringGet s.rx.ring k).toNat) ∧
    (∀ sp index rest, s.inbox = .hostRead sp index :: rest →
      let t := { s with inbox := rest, trace := s.trace ++ [.hostData (hostReadValue sp index s)] }
      takeInput s = (t, none) ∧ (AtRest s → s.ports.rst = false → step s = .next t))
end

