-- ==== Sys2Proof/Laws/Config.lean ====
section
/-!
SUPPORT. The value of each parameter of the reference configuration (spec/00_scope.md R6), for simp.
-/
namespace Sys2Proof

@[simp] theorem params_blockSize : params.blockSize = 1000 := rfl
@[simp] theorem params_p2pMin : params.p2pMin = 100 := rfl
@[simp] theorem params_ldLowPct : params.ldLowPct = 30 := rfl
@[simp] theorem params_ldHighPct : params.ldHighPct = 70 := rfl
@[simp] theorem params_pktLen : params.pktLen = 4 := rfl
@[simp] theorem params_ringCap : params.ringCap = 32 := rfl
@[simp] theorem params_frWin : params.frWin = 8 := rfl
@[simp] theorem params_frLowPct : params.frLowPct = 35 := rfl
@[simp] theorem params_frHighPct : params.frHighPct = 65 := rfl
@[simp] theorem params_frDepthMin : params.frDepthMin = 20 := rfl
@[simp] theorem params_crcPoly : params.crcPoly = 0x1021 := rfl
@[simp] theorem params_crcInit : params.crcInit = 0 := rfl
@[simp] theorem params_vtable : params.vtable = [100, 180, 240, 300, 400] := rfl
@[simp] theorem params_iMin : params.iMin = 1 := rfl
@[simp] theorem params_iMax : params.iMax = 15 := rfl
@[simp] theorem params_bufLen : params.bufLen = 256 := rfl

/-- The widths of the types are those of the configuration, and `RING_CAP = 8 × PKT_LEN`. -/
theorem params_agree_with_types :
    params.tickBits = 16 ∧ params.sampleBits = 10 ∧ params.ringCap = 2 ^ 5 ∧ params.consistent := by decide

end Sys2Proof
end

