-- ==== Sys2Proof/Laws/Memory.lean ====
section
/-!
SUPPORT. The laws of the buffers: reading after writing, and that every memory operation keeps the canonical form.
-/
namespace Sys2Proof.Machine

@[simp] theorem Memory.unlisted_eq : Memory.unlisted = 0 := rfl

@[simp] theorem Memory.read_nil (x : Nat) : Memory.read [] x = 0 := rfl

/-- An index below every entry is unlisted. -/
theorem Memory.read_below {m : Memory} {x : Nat} (h : ∀ c ∈ m, x < c.1) : m.read x = 0 := by
  induction m with
  | nil => rfl
  | cons c m ih =>
    obtain ⟨a, v⟩ := c
    have hx : x < a := h (a, v) (by simp)
    simp only [Memory.read, if_neg (Nat.ne_of_lt hx)]
    exact ih fun d hd => h d (by simp [hd])

/-- A write leaves every other index as it was. -/
theorem Memory.read_write_other (m : Memory) {x y : Nat} (v : Byte) (h : y ≠ x) :
    (m.write x v).read y = m.read y := by
  induction m with
  | nil => simp only [Memory.write]; split <;> simp [Memory.read, h]
  | cons c m ih =>
    obtain ⟨a, u⟩ := c
    simp only [Memory.write]
    split
    · split <;> simp [Memory.read, h]
    · split
      · subst_vars
        split <;> simp [Memory.read, h]
      · simp only [Memory.read]; split <;> simp [ih]

/-- Reading the index written gives the byte written. -/
theorem Memory.read_write_same {m : Memory} (x : Nat) (v : Byte) (h : m.wf) : (m.write x v).read x = v := by
  induction m with
  | nil => simp only [Memory.write]; split <;> simp_all [Memory.read]
  | cons c m ih =>
    obtain ⟨a, u⟩ := c
    obtain ⟨hp, hn⟩ := h
    rw [List.pairwise_cons] at hp
    simp only [Memory.write]
    split
    · rename_i hlt
      split
      · rename_i hv
        rw [hv]
        exact Memory.read_below fun d hd => by
          rcases List.mem_cons.mp hd with rfl | hd
          · exact hlt
          · exact Nat.lt_trans hlt (hp.1 d hd)
      · simp [Memory.read]
    · split
      · rename_i hxa
        split
        · rename_i hv
          rw [hv]
          exact Memory.read_below fun d hd => by rw [hxa]; exact hp.1 d hd
        · simp [Memory.read]
      · rename_i hxa
        simp only [Memory.read, if_neg hxa]
        exact ih ⟨hp.2, fun d hd => hn d (by simp [hd])⟩

/-- An entry after a write is an entry from before or the byte written. -/
theorem Memory.mem_write {m : Memory} {x : Nat} {v : Byte} {c : Host.Cell} (h : c ∈ m.write x v) :
    c ∈ m ∨ (c = (x, v) ∧ v ≠ Memory.unlisted) := by
  induction m with
  | nil => simp only [Memory.write] at h; split at h <;> simp_all
  | cons d m ih =>
    obtain ⟨a, u⟩ := d
    simp only [Memory.write] at h
    split at h
    · split at h
      · exact .inl h
      · rcases List.mem_cons.mp h with rfl | h
        · exact .inr ⟨rfl, ‹_›⟩
        · exact .inl h
    · split at h
      · split at h
        · exact .inl (List.mem_cons_of_mem _ h)
        · rcases List.mem_cons.mp h with rfl | h
          · exact .inr ⟨rfl, ‹_›⟩
          · exact .inl (List.mem_cons_of_mem _ h)
      · rcases List.mem_cons.mp h with rfl | h
        · exact .inl (by simp)
        · rcases ih h with h | h
          · exact .inl (List.mem_cons_of_mem _ h)
          · exact .inr h

/-- A write keeps the canonical form. -/
theorem Memory.write_wf {m : Memory} (x : Nat) (v : Byte) (h : m.wf) : (m.write x v).wf := by
  refine ⟨?_, fun c hc => ?_⟩
  · obtain ⟨hp, -⟩ := h
    induction m with
    | nil => simp only [Memory.write]; split <;> simp
    | cons c m ih =>
      obtain ⟨a, u⟩ := c
      obtain ⟨ha, hm⟩ := List.pairwise_cons.mp hp
      simp only [Memory.write]
      split
      · rename_i hlt
        split
        · exact hp
        · refine List.pairwise_cons.mpr ⟨fun d hd => ?_, hp⟩
          rcases List.mem_cons.mp hd with rfl | hd
          · exact hlt
          · exact Nat.lt_trans hlt (ha d hd)
      · rename_i hlt
        split
        · rename_i hxa
          split
          · exact hm
          · exact List.pairwise_cons.mpr ⟨fun d hd => by rw [hxa]; exact ha d hd, hm⟩
        · rename_i hxa
          refine List.pairwise_cons.mpr ⟨fun d hd => ?_, ih hm⟩
          rcases Memory.mem_write hd with hd | ⟨rfl, -⟩
          · exact ha d hd
          · exact Nat.lt_of_le_of_ne (Nat.le_of_not_lt hlt) (Ne.symm hxa)
  · rcases Memory.mem_write hc with hc | ⟨rfl, hv⟩
    · exact h.2 c hc
    · exact hv

/-- A write inside a buffer keeps every entry inside it. -/
theorem Memory.write_within {m : Memory} {x : Nat} (v : Byte) (hx : x < params.bufLen) (h : m.within) :
    (m.write x v).within := fun c hc => by
  rcases Memory.mem_write hc with hc | ⟨rfl, -⟩
  · exact h c hc
  · exact hx

/-- The buffers after reset are in canonical form. -/
theorem reset_buffers_wf : State.reset.wbuf.wf ∧ State.reset.rbuf.wf ∧ State.reset.wbuf.within ∧ State.reset.rbuf.within := by
  decide

/-- The host's write keeps both buffers canonical. -/
theorem hostWrite_buffers_wf (sp : Space) (index : Nat) (value : Word) {s : State} (hw : s.wbuf.wf) (hr : s.rbuf.wf) :
    (hostWrite sp index value s).1.wbuf.wf ∧ (hostWrite sp index value s).1.rbuf.wf := by
  unfold hostWrite
  split
  · exact ⟨hw, hr⟩
  · cases sp with
    | reg => simp only; split; · exact ⟨hw, hr⟩
             split <;> exact ⟨hw, hr⟩
    | wbuf => simp only; split; · exact ⟨Memory.write_wf _ _ hw, hr⟩
              exact ⟨hw, hr⟩
    | rbuf => exact ⟨hw, hr⟩
    | ring => exact ⟨hw, hr⟩

end Sys2Proof.Machine
end

