-- ==== Sys2Proof/Laws/State.lean ====
section
/-!
SUPPORT. One lemma per field of `State` per named update, each true by unfolding once, so that no later proof unfolds a
record update.
-/
namespace Sys2Proof.Machine

@[simp] theorem emit_rx (o : PortOut) (s : State) : (emit o s).rx = s.rx := rfl
@[simp] theorem emit_res (o : PortOut) (s : State) : (emit o s).res = s.res := rfl
@[simp] theorem emit_pkt (o : PortOut) (s : State) : (emit o s).pkt = s.pkt := rfl
@[simp] theorem emit_cfg (o : PortOut) (s : State) : (emit o s).cfg = s.cfg := rfl
@[simp] theorem emit_cmd (o : PortOut) (s : State) : (emit o s).cmd = s.cmd := rfl
@[simp] theorem emit_wbuf (o : PortOut) (s : State) : (emit o s).wbuf = s.wbuf := rfl
@[simp] theorem emit_rbuf (o : PortOut) (s : State) : (emit o s).rbuf = s.rbuf := rfl
@[simp] theorem emit_seq (o : PortOut) (s : State) : (emit o s).seq = s.seq := rfl
@[simp] theorem emit_flags (o : PortOut) (s : State) : (emit o s).flags = s.flags := rfl
@[simp] theorem emit_ports (o : PortOut) (s : State) : (emit o s).ports = s.ports := rfl
@[simp] theorem emit_inbox (o : PortOut) (s : State) : (emit o s).inbox = s.inbox := rfl
@[simp] theorem emit_trace (o : PortOut) (s : State) : (emit o s).trace = s.trace ++ [o] := rfl

@[simp] theorem port_rx (c : BusCmd) (s : State) : (port c s).rx = s.rx := rfl
@[simp] theorem port_res (c : BusCmd) (s : State) : (port c s).res = s.res := rfl
@[simp] theorem port_pkt (c : BusCmd) (s : State) : (port c s).pkt = s.pkt := rfl
@[simp] theorem port_cfg (c : BusCmd) (s : State) : (port c s).cfg = s.cfg := rfl
@[simp] theorem port_cmd (c : BusCmd) (s : State) : (port c s).cmd = s.cmd := rfl
@[simp] theorem port_wbuf (c : BusCmd) (s : State) : (port c s).wbuf = s.wbuf := rfl
@[simp] theorem port_rbuf (c : BusCmd) (s : State) : (port c s).rbuf = s.rbuf := rfl
@[simp] theorem port_seq (c : BusCmd) (s : State) : (port c s).seq = s.seq := rfl
@[simp] theorem port_flags (c : BusCmd) (s : State) : (port c s).flags = s.flags := rfl
@[simp] theorem port_ports (c : BusCmd) (s : State) : (port c s).ports = { s.ports with bus := clearedBy c s.ports.bus } := rfl
@[simp] theorem port_inbox (c : BusCmd) (s : State) : (port c s).inbox = s.inbox := rfl
@[simp] theorem port_trace (c : BusCmd) (s : State) : (port c s).trace = s.trace ++ [.bus c] := rfl

@[simp] theorem accept_rx (i : Instr) (s : State) : (accept i s).rx = s.rx := rfl
@[simp] theorem accept_res (i : Instr) (s : State) : (accept i s).res = s.res := rfl
@[simp] theorem accept_pkt (i : Instr) (s : State) : (accept i s).pkt = s.pkt := rfl
@[simp] theorem accept_cfg (i : Instr) (s : State) : (accept i s).cfg = s.cfg := rfl
@[simp] theorem accept_cmd (i : Instr) (s : State) : (accept i s).cmd = s.cmd := rfl
@[simp] theorem accept_wbuf (i : Instr) (s : State) : (accept i s).wbuf = s.wbuf := rfl
@[simp] theorem accept_rbuf (i : Instr) (s : State) : (accept i s).rbuf = s.rbuf := rfl
@[simp] theorem accept_seq (i : Instr) (s : State) : (accept i s).seq = { s.seq with opr := some i } := rfl
@[simp] theorem accept_flags (i : Instr) (s : State) : (accept i s).flags = { s.flags with busy := true, cmdErr := false } := rfl
@[simp] theorem accept_ports (i : Instr) (s : State) : (accept i s).ports = s.ports := rfl
@[simp] theorem accept_inbox (i : Instr) (s : State) : (accept i s).inbox = s.inbox := rfl
@[simp] theorem accept_trace (i : Instr) (s : State) : (accept i s).trace = s.trace := rfl

@[simp] theorem refuseCommand_rx (s : State) : (refuseCommand s).rx = s.rx := rfl
@[simp] theorem refuseCommand_res (s : State) : (refuseCommand s).res = s.res := rfl
@[simp] theorem refuseCommand_pkt (s : State) : (refuseCommand s).pkt = s.pkt := rfl
@[simp] theorem refuseCommand_cfg (s : State) : (refuseCommand s).cfg = s.cfg := rfl
@[simp] theorem refuseCommand_cmd (s : State) : (refuseCommand s).cmd = s.cmd := rfl
@[simp] theorem refuseCommand_wbuf (s : State) : (refuseCommand s).wbuf = s.wbuf := rfl
@[simp] theorem refuseCommand_rbuf (s : State) : (refuseCommand s).rbuf = s.rbuf := rfl
@[simp] theorem refuseCommand_seq (s : State) : (refuseCommand s).seq = s.seq := rfl
@[simp] theorem refuseCommand_flags (s : State) : (refuseCommand s).flags = { s.flags with cmdErr := true } := rfl
@[simp] theorem refuseCommand_ports (s : State) : (refuseCommand s).ports = s.ports := rfl
@[simp] theorem refuseCommand_inbox (s : State) : (refuseCommand s).inbox = s.inbox := rfl
@[simp] theorem refuseCommand_trace (s : State) : (refuseCommand s).trace = s.trace := rfl

@[simp] theorem finish_rx (s : State) : (finish s).rx = s.rx := rfl
@[simp] theorem finish_res (s : State) : (finish s).res = s.res := rfl
@[simp] theorem finish_pkt (s : State) : (finish s).pkt = s.pkt := rfl
@[simp] theorem finish_cfg (s : State) : (finish s).cfg = s.cfg := rfl
@[simp] theorem finish_cmd (s : State) : (finish s).cmd = s.cmd := rfl
@[simp] theorem finish_wbuf (s : State) : (finish s).wbuf = s.wbuf := rfl
@[simp] theorem finish_rbuf (s : State) : (finish s).rbuf = s.rbuf := rfl
@[simp] theorem finish_seq (s : State) : (finish s).seq = { s.seq with opr := none, rxState := .idle, bmeState := .idle } := rfl
@[simp] theorem finish_flags (s : State) : (finish s).flags = { s.flags with busy := false } := rfl
@[simp] theorem finish_ports (s : State) : (finish s).ports = s.ports := rfl
@[simp] theorem finish_inbox (s : State) : (finish s).inbox = s.inbox := rfl
@[simp] theorem finish_trace (s : State) : (finish s).trace = s.trace := rfl

@[simp] theorem finishBus_rx (ok : Bool) (s : State) : (finishBus ok s).rx = s.rx := rfl
@[simp] theorem finishBus_res (ok : Bool) (s : State) : (finishBus ok s).res = s.res := rfl
@[simp] theorem finishBus_pkt (ok : Bool) (s : State) : (finishBus ok s).pkt = s.pkt := rfl
@[simp] theorem finishBus_cfg (ok : Bool) (s : State) : (finishBus ok s).cfg = s.cfg := rfl
@[simp] theorem finishBus_cmd (ok : Bool) (s : State) : (finishBus ok s).cmd = s.cmd := rfl
@[simp] theorem finishBus_wbuf (ok : Bool) (s : State) : (finishBus ok s).wbuf = s.wbuf := rfl
@[simp] theorem finishBus_rbuf (ok : Bool) (s : State) : (finishBus ok s).rbuf = s.rbuf := rfl
@[simp] theorem finishBus_seq (ok : Bool) (s : State) : (finishBus ok s).seq = { s.seq with opr := none, rxState := .idle, bmeState := .idle } := rfl
@[simp] theorem finishBus_flags (ok : Bool) (s : State) : (finishBus ok s).flags = { s.flags with busy := false, busOk := ok } := rfl
@[simp] theorem finishBus_ports (ok : Bool) (s : State) : (finishBus ok s).ports = s.ports := rfl
@[simp] theorem finishBus_inbox (ok : Bool) (s : State) : (finishBus ok s).inbox = s.inbox := rfl
@[simp] theorem finishBus_trace (ok : Bool) (s : State) : (finishBus ok s).trace = s.trace := rfl

@[simp] theorem awaitTick_rx (s : State) : (awaitTick s).rx = s.rx := rfl
@[simp] theorem awaitTick_res (s : State) : (awaitTick s).res = s.res := rfl
@[simp] theorem awaitTick_pkt (s : State) : (awaitTick s).pkt = s.pkt := rfl
@[simp] theorem awaitTick_cfg (s : State) : (awaitTick s).cfg = s.cfg := rfl
@[simp] theorem awaitTick_cmd (s : State) : (awaitTick s).cmd = s.cmd := rfl
@[simp] theorem awaitTick_wbuf (s : State) : (awaitTick s).wbuf = s.wbuf := rfl
@[simp] theorem awaitTick_rbuf (s : State) : (awaitTick s).rbuf = s.rbuf := rfl
@[simp] theorem awaitTick_seq (s : State) : (awaitTick s).seq = { s.seq with rxState := .waitTick } := rfl
@[simp] theorem awaitTick_flags (s : State) : (awaitTick s).flags = s.flags := rfl
@[simp] theorem awaitTick_ports (s : State) : (awaitTick s).ports = s.ports := rfl
@[simp] theorem awaitTick_inbox (s : State) : (awaitTick s).inbox = s.inbox := rfl
@[simp] theorem awaitTick_trace (s : State) : (awaitTick s).trace = s.trace := rfl

@[simp] theorem consumeTick_rx (s : State) : (consumeTick s).rx = { s.rx with tick := s.rx.tick + 1 } := rfl
@[simp] theorem consumeTick_res (s : State) : (consumeTick s).res = s.res := rfl
@[simp] theorem consumeTick_pkt (s : State) : (consumeTick s).pkt = s.pkt := rfl
@[simp] theorem consumeTick_cfg (s : State) : (consumeTick s).cfg = s.cfg := rfl
@[simp] theorem consumeTick_cmd (s : State) : (consumeTick s).cmd = s.cmd := rfl
@[simp] theorem consumeTick_wbuf (s : State) : (consumeTick s).wbuf = s.wbuf := rfl
@[simp] theorem consumeTick_rbuf (s : State) : (consumeTick s).rbuf = s.rbuf := rfl
@[simp] theorem consumeTick_seq (s : State) : (consumeTick s).seq = { s.seq with rxState := .idle } := rfl
@[simp] theorem consumeTick_flags (s : State) : (consumeTick s).flags = s.flags := rfl
@[simp] theorem consumeTick_ports (s : State) : (consumeTick s).ports = { s.ports with tov := false } := rfl
@[simp] theorem consumeTick_inbox (s : State) : (consumeTick s).inbox = s.inbox := rfl
@[simp] theorem consumeTick_trace (s : State) : (consumeTick s).trace = s.trace ++ [.tovClr] := rfl

@[simp] theorem startConversion_rx (s : State) : (startConversion s).rx = s.rx := rfl
@[simp] theorem startConversion_res (s : State) : (startConversion s).res = s.res := rfl
@[simp] theorem startConversion_pkt (s : State) : (startConversion s).pkt = s.pkt := rfl
@[simp] theorem startConversion_cfg (s : State) : (startConversion s).cfg = s.cfg := rfl
@[simp] theorem startConversion_cmd (s : State) : (startConversion s).cmd = s.cmd := rfl
@[simp] theorem startConversion_wbuf (s : State) : (startConversion s).wbuf = s.wbuf := rfl
@[simp] theorem startConversion_rbuf (s : State) : (startConversion s).rbuf = s.rbuf := rfl
@[simp] theorem startConversion_seq (s : State) : (startConversion s).seq = { s.seq with rxState := .waitAdc } := rfl
@[simp] theorem startConversion_flags (s : State) : (startConversion s).flags = s.flags := rfl
@[simp] theorem startConversion_ports (s : State) : (startConversion s).ports = s.ports := rfl
@[simp] theorem startConversion_inbox (s : State) : (startConversion s).inbox = s.inbox := rfl
@[simp] theorem startConversion_trace (s : State) : (startConversion s).trace = s.trace ++ [.adcStart] := rfl

@[simp] theorem takeReading_rx (s : State) : (takeReading s).rx = s.rx := rfl
@[simp] theorem takeReading_res (s : State) : (takeReading s).res = s.res := rfl
@[simp] theorem takeReading_pkt (s : State) : (takeReading s).pkt = s.pkt := rfl
@[simp] theorem takeReading_cfg (s : State) : (takeReading s).cfg = s.cfg := rfl
@[simp] theorem takeReading_cmd (s : State) : (takeReading s).cmd = s.cmd := rfl
@[simp] theorem takeReading_wbuf (s : State) : (takeReading s).wbuf = s.wbuf := rfl
@[simp] theorem takeReading_rbuf (s : State) : (takeReading s).rbuf = s.rbuf := rfl
@[simp] theorem takeReading_seq (s : State) : (takeReading s).seq = { s.seq with rxState := .idle } := rfl
@[simp] theorem takeReading_flags (s : State) : (takeReading s).flags = s.flags := rfl
@[simp] theorem takeReading_ports (s : State) : (takeReading s).ports = { s.ports with adcDone := false } := rfl
@[simp] theorem takeReading_inbox (s : State) : (takeReading s).inbox = s.inbox := rfl
@[simp] theorem takeReading_trace (s : State) : (takeReading s).trace = s.trace := rfl

@[simp] theorem beginPeriod_rx (s : State) : (beginPeriod s).rx = s.rx := rfl
@[simp] theorem beginPeriod_res (s : State) : (beginPeriod s).res = s.res := rfl
@[simp] theorem beginPeriod_pkt (s : State) : (beginPeriod s).pkt = s.pkt := rfl
@[simp] theorem beginPeriod_cfg (s : State) : (beginPeriod s).cfg = s.cfg := rfl
@[simp] theorem beginPeriod_cmd (s : State) : (beginPeriod s).cmd = s.cmd := rfl
@[simp] theorem beginPeriod_wbuf (s : State) : (beginPeriod s).wbuf = s.wbuf := rfl
@[simp] theorem beginPeriod_rbuf (s : State) : (beginPeriod s).rbuf = s.rbuf := rfl
@[simp] theorem beginPeriod_seq (s : State) : (beginPeriod s).seq = { s.seq with edgeNo := 0, rxState := .waitTick } := rfl
@[simp] theorem beginPeriod_flags (s : State) : (beginPeriod s).flags = s.flags := rfl
@[simp] theorem beginPeriod_ports (s : State) : (beginPeriod s).ports = s.ports := rfl
@[simp] theorem beginPeriod_inbox (s : State) : (beginPeriod s).inbox = s.inbox := rfl
@[simp] theorem beginPeriod_trace (s : State) : (beginPeriod s).trace = s.trace := rfl

@[simp] theorem blockReset_rx (s : State) : (blockReset s).rx = .reset := rfl
@[simp] theorem blockReset_res (s : State) : (blockReset s).res = 0 := rfl
@[simp] theorem blockReset_pkt (s : State) : (blockReset s).pkt = 0 := rfl
@[simp] theorem blockReset_cfg (s : State) : (blockReset s).cfg = .reset := rfl
@[simp] theorem blockReset_cmd (s : State) : (blockReset s).cmd = 0 := rfl
@[simp] theorem blockReset_wbuf (s : State) : (blockReset s).wbuf = [] := rfl
@[simp] theorem blockReset_rbuf (s : State) : (blockReset s).rbuf = [] := rfl
@[simp] theorem blockReset_seq (s : State) : (blockReset s).seq = .reset := rfl
@[simp] theorem blockReset_flags (s : State) : (blockReset s).flags = .reset := rfl
@[simp] theorem blockReset_ports (s : State) : (blockReset s).ports = s.ports := rfl
@[simp] theorem blockReset_inbox (s : State) : (blockReset s).inbox = s.inbox := rfl
@[simp] theorem blockReset_trace (s : State) : (blockReset s).trace = s.trace := rfl

/-! The detector's pure updates of the receiver. -/

@[simp] theorem foldSample_tick (smp : Sample) (r : Receiver) : (foldSample smp r).tick = r.tick := rfl
@[simp] theorem foldSample_calMin (smp : Sample) (r : Receiver) :
    (foldSample smp r).calMin = if smp < r.calMin then smp else r.calMin := rfl
@[simp] theorem foldSample_calMax (smp : Sample) (r : Receiver) :
    (foldSample smp r).calMax = if r.calMax < smp then smp else r.calMax := rfl
@[simp] theorem foldSample_calPos (smp : Sample) (r : Receiver) : (foldSample smp r).calPos = r.calPos := rfl
@[simp] theorem foldSample_thrLow (smp : Sample) (r : Receiver) : (foldSample smp r).thrLow = r.thrLow := rfl
@[simp] theorem foldSample_thrHigh (smp : Sample) (r : Receiver) : (foldSample smp r).thrHigh = r.thrHigh := rfl
@[simp] theorem foldSample_calP2p (smp : Sample) (r : Receiver) : (foldSample smp r).calP2p = r.calP2p := rfl
@[simp] theorem foldSample_level (smp : Sample) (r : Receiver) : (foldSample smp r).level = r.level := rfl
@[simp] theorem foldSample_lastFlip (smp : Sample) (r : Receiver) : (foldSample smp r).lastFlip = r.lastFlip := rfl
@[simp] theorem foldSample_ring (smp : Sample) (r : Receiver) : (foldSample smp r).ring = r.ring := rfl
@[simp] theorem foldSample_cur (smp : Sample) (r : Receiver) : (foldSample smp r).cur = r.cur := rfl

@[simp] theorem endWindow_tick (r : Receiver) : (endWindow r).tick = r.tick := rfl
@[simp] theorem endWindow_calMin (r : Receiver) : (endWindow r).calMin = 1023 := rfl
@[simp] theorem endWindow_calMax (r : Receiver) : (endWindow r).calMax = 0 := rfl
@[simp] theorem endWindow_calPos (r : Receiver) : (endWindow r).calPos = 0 := rfl
@[simp] theorem endWindow_thrLow (r : Receiver) :
    (endWindow r).thrLow = BitVec.ofNat 10 (percentAbove r.calMin.toNat (r.calMax.toNat - r.calMin.toNat) params.ldLowPct) := rfl
@[simp] theorem endWindow_thrHigh (r : Receiver) :
    (endWindow r).thrHigh = BitVec.ofNat 10 (percentAbove r.calMin.toNat (r.calMax.toNat - r.calMin.toNat) params.ldHighPct) := rfl
@[simp] theorem endWindow_calP2p (r : Receiver) :
    (endWindow r).calP2p = BitVec.ofNat 10 (r.calMax.toNat - r.calMin.toNat) := rfl
@[simp] theorem endWindow_level (r : Receiver) : (endWindow r).level = r.level := rfl
@[simp] theorem endWindow_lastFlip (r : Receiver) : (endWindow r).lastFlip = r.lastFlip := rfl
@[simp] theorem endWindow_ring (r : Receiver) : (endWindow r).ring = r.ring := rfl
@[simp] theorem endWindow_cur (r : Receiver) : (endWindow r).cur = r.cur := rfl

@[simp] theorem commitFlip_tick (r : Receiver) : (commitFlip r).tick = r.tick := rfl
@[simp] theorem commitFlip_calMin (r : Receiver) : (commitFlip r).calMin = r.calMin := rfl
@[simp] theorem commitFlip_calMax (r : Receiver) : (commitFlip r).calMax = r.calMax := rfl
@[simp] theorem commitFlip_calPos (r : Receiver) : (commitFlip r).calPos = r.calPos := rfl
@[simp] theorem commitFlip_thrLow (r : Receiver) : (commitFlip r).thrLow = r.thrLow := rfl
@[simp] theorem commitFlip_thrHigh (r : Receiver) : (commitFlip r).thrHigh = r.thrHigh := rfl
@[simp] theorem commitFlip_calP2p (r : Receiver) : (commitFlip r).calP2p = r.calP2p := rfl
@[simp] theorem commitFlip_level (r : Receiver) : (commitFlip r).level = !r.level := rfl
@[simp] theorem commitFlip_lastFlip (r : Receiver) : (commitFlip r).lastFlip = r.tick := rfl
@[simp] theorem commitFlip_ring (r : Receiver) : (commitFlip r).ring = r.ring := rfl
@[simp] theorem commitFlip_cur (r : Receiver) : (commitFlip r).cur = r.cur := rfl

@[simp] theorem pushPeriod_tick (m : Tick) (r : Receiver) : (pushPeriod m r).tick = r.tick := rfl
@[simp] theorem pushPeriod_calMin (m : Tick) (r : Receiver) : (pushPeriod m r).calMin = r.calMin := rfl
@[simp] theorem pushPeriod_calMax (m : Tick) (r : Receiver) : (pushPeriod m r).calMax = r.calMax := rfl
@[simp] theorem pushPeriod_calPos (m : Tick) (r : Receiver) : (pushPeriod m r).calPos = r.calPos := rfl
@[simp] theorem pushPeriod_thrLow (m : Tick) (r : Receiver) : (pushPeriod m r).thrLow = r.thrLow := rfl
@[simp] theorem pushPeriod_thrHigh (m : Tick) (r : Receiver) : (pushPeriod m r).thrHigh = r.thrHigh := rfl
@[simp] theorem pushPeriod_calP2p (m : Tick) (r : Receiver) : (pushPeriod m r).calP2p = r.calP2p := rfl
@[simp] theorem pushPeriod_level (m : Tick) (r : Receiver) : (pushPeriod m r).level = r.level := rfl
@[simp] theorem pushPeriod_lastFlip (m : Tick) (r : Receiver) : (pushPeriod m r).lastFlip = r.lastFlip := rfl
@[simp] theorem pushPeriod_ring (m : Tick) (r : Receiver) : (pushPeriod m r).ring = ringSet r.ring r.cur m := rfl
@[simp] theorem pushPeriod_cur (m : Tick) (r : Receiver) : (pushPeriod m r).cur = r.cur + 1 := rfl

end Sys2Proof.Machine
end

