-- ==== Sys2Proof/Laws/Ops.lean ====
section
/-!
SUPPORT. One lemma per shared operation that says once everything it can do; proofs cite these and do not unfold the
operation.
-/
namespace Sys2Proof.Machine

/-! ### Port commands -/

@[simp] theorem clearedBy_wif (c : BusCmd) (st : BusSample) : (clearedBy c st).wif = false := by cases c <;> rfl
@[simp] theorem clearedBy_rif (c : BusCmd) (st : BusSample) : (clearedBy c st).rif = false := by cases c <;> rfl
@[simp] theorem clearedBy_rxack (c : BusCmd) (st : BusSample) : (clearedBy c st).rxack = st.rxack := by cases c <;> rfl
@[simp] theorem clearedBy_rdata (c : BusCmd) (st : BusSample) : (clearedBy c st).rdata = st.rdata := by cases c <;> rfl

@[simp] theorem busCmd?_bus (c : BusCmd) : PortOut.busCmd? (.bus c) = some c := rfl
@[simp] theorem busCmd?_tovClr : PortOut.busCmd? .tovClr = none := rfl
@[simp] theorem busCmd?_adcStart : PortOut.busCmd? .adcStart = none := rfl
@[simp] theorem busCmd?_hostData (v : Word) : PortOut.busCmd? (.hostData v) = none := rfl

/-! ### Operations -/

/-- An idle block accepts a well-formed command. -/
theorem runOperation_idle {i : Instr} (b a : State → State) {s : State} (h : s.flags.busy = false)
    (hw : i.wellFormed = true) : runOperation i b a s = a (b (accept i s)) := by
  simp [runOperation, h, hw]

/-- An idle block refuses an ill-formed command. -/
theorem runOperation_refuse {i : Instr} (b a : State → State) {s : State} (h : s.flags.busy = false)
    (hw : i.wellFormed = false) : runOperation i b a s = refuseCommand s := by
  simp [runOperation, h, hw]

/-- The operation in progress goes on. -/
theorem runOperation_running {i : Instr} (b a : State → State) {s : State} (h : Running i s) :
    runOperation i b a s = a s := by
  simp [runOperation, h.1, h.2]

/-- Everything `runOperation` can do. -/
theorem runOperation_cases (i : Instr) (b a : State → State) (s : State) :
    (s.flags.busy = false ∧ i.wellFormed = true ∧ runOperation i b a s = a (b (accept i s))) ∨
    (s.flags.busy = false ∧ i.wellFormed = false ∧ runOperation i b a s = refuseCommand s) ∨
    (Running i s ∧ runOperation i b a s = a s) ∨
    (s.flags.busy = true ∧ s.seq.opr ≠ some i ∧ runOperation i b a s = s) := by
  cases hb : s.flags.busy <;> cases hw : i.wellFormed <;> by_cases ho : s.seq.opr = some i <;>
    simp [runOperation, Running, hb, hw, ho]

/-- Everything going on from a receiver's wait can do. -/
theorem rxAdvance_cases (f : State → State) (g : Sample → State → State) (s : State) :
    (rxWaitOver s = false ∧ rxAdvance f g s = s) ∨
    (s.seq.rxState = .waitTick ∧ s.ports.tov = true ∧ rxAdvance f g s = f (consumeTick s)) ∨
    (s.seq.rxState = .waitAdc ∧ s.ports.adcDone = true ∧
      rxAdvance f g s = g s.ports.adcData (takeReading s)) := by
  cases hr : s.seq.rxState <;> cases ht : s.ports.tov <;> cases ha : s.ports.adcDone <;>
    simp [rxAdvance, rxWaitOver, hr, ht, ha]

/-- A receiver whose wait is not over stays where it is, one advance. -/
theorem rxAdvance_waiting (f : State → State) (g : Sample → State → State) {s : State} (h : rxWaitOver s = false) :
    rxAdvance f g s = s := by
  rcases rxAdvance_cases f g s with ⟨-, h'⟩ | ⟨hr, ht, -⟩ | ⟨hr, ha, -⟩
  · exact h'
  · simp [rxWaitOver, hr, ht] at h
  · simp [rxWaitOver, hr, ha] at h

/-- A receiver whose wait is not over stays where it is. -/
theorem rxRun_waiting (f : State → State) (g : Sample → State → State) {s : State} (h : rxWaitOver s = false) :
    rxRun f g s = s := by
  simp [rxRun, rxAdvance_waiting f g h]

/-- After a consumed tick the receiver goes on. -/
theorem rxRun_tick (f : State → State) (g : Sample → State → State) {s : State} (hr : s.seq.rxState = .waitTick)
    (ht : s.ports.tov = true) : rxRun f g s = rxAdvance f g (f (consumeTick s)) := by
  simp [rxRun, rxAdvance, hr, ht]

/-- After a reading the receiver goes on. -/
theorem rxRun_reading (f : State → State) (g : Sample → State → State) {s : State} (hr : s.seq.rxState = .waitAdc)
    (ha : s.ports.adcDone = true) :
    rxRun f g s = rxAdvance f g (g s.ports.adcData (takeReading s)) := by
  simp [rxRun, rxAdvance, hr, ha]

/-- Everything going on from the engine's wait can do. -/
theorem busAdvance_cases (o : State → Nat → Byte) (s : State) :
    (busWaitOver s = false ∧ busAdvance o s = s) ∨
    (s.seq.bmeState = .addrW ∧ addressDone s.ports.bus = true ∧ busAdvance o s = afterWriteAddress o s) ∨
    (s.seq.bmeState = .wrByte ∧ s.ports.bus.wif = true ∧ busAdvance o s = afterWriteByte o s) ∨
    (s.seq.bmeState = .addrR ∧ addressDone s.ports.bus = true ∧ busAdvance o s = afterReadAddress s) ∨
    (s.seq.bmeState = .rdByte ∧ s.ports.bus.rif = true ∧ busAdvance o s = afterReadByte s) := by
  cases hb : s.seq.bmeState with
  | idle => simp [busAdvance, busWaitOver, hb]
  | stop => simp [busAdvance, busWaitOver, hb]
  | addrW => cases hd : addressDone s.ports.bus <;> simp [busAdvance, busWaitOver, hb, hd]
  | wrByte => cases hd : s.ports.bus.wif <;> simp [busAdvance, busWaitOver, hb, hd]
  | addrR => cases hd : addressDone s.ports.bus <;> simp [busAdvance, busWaitOver, hb, hd]
  | rdByte => cases hd : s.ports.bus.rif <;> simp [busAdvance, busWaitOver, hb, hd]

/-- An engine whose wait is not over stays where it is. -/
theorem busAdvance_waiting (o : State → Nat → Byte) {s : State} (h : busWaitOver s = false) : busAdvance o s = s := by
  rcases busAdvance_cases o s with ⟨-, h'⟩ | ⟨hb, hd, -⟩ | ⟨hb, hd, -⟩ | ⟨hb, hd, -⟩ | ⟨hb, hd, -⟩
  · exact h'
  all_goals simp [busWaitOver, hb, hd] at h

/-! ### Inputs -/

/-- What any input leaves alone, on a busy block: everything but the ports, the inbox and the trace; and it presents no
command (spec/10_state.md R30, spec/20_memory.md R72). -/
theorem takeInput_busy {s : State} (h : s.flags.busy = true) :
    (takeInput s).2 = none ∧
    ∃ p l tr, (takeInput s).1 = { s with ports := p, inbox := l, trace := tr } := by
  unfold takeInput
  cases hi : s.inbox with
  | nil => exact ⟨rfl, s.ports, s.inbox, s.trace, rfl⟩
  | cons e rest =>
    cases e with
    | hostWrite sp ix v => simp only [applyInput, hostWrite, h]; exact ⟨rfl, _, _, _, rfl⟩
    | _ => exact ⟨rfl, _, _, _, rfl⟩

/-- Everything an input can do to any block. -/
theorem takeInput_cases (s : State) :
    (∃ p l tr, takeInput s = ({ s with ports := p, inbox := l, trace := tr }, none)) ∨
    (s.flags.busy = false ∧ ∃ v l, takeInput s = ({ s with pkt := v, inbox := l }, none)) ∨
    (s.flags.busy = false ∧ ∃ ix v l, ix < params.bufLen ∧
      takeInput s = ({ s with wbuf := s.wbuf.write ix v, inbox := l }, none)) ∨
    (s.flags.busy = false ∧ ∃ w l, s.inbox = .hostWrite .reg 8 w :: l ∧
      takeInput s = ({ s with cmd := w, inbox := l }, some w)) := by
  unfold takeInput
  cases hi : s.inbox with
  | nil => exact .inl ⟨s.ports, s.inbox, s.trace, rfl⟩
  | cons e rest =>
    cases e with
    | hostWrite sp ix v =>
      cases hb : s.flags.busy with
      | true => exact .inl ⟨s.ports, rest, s.trace, by simp [applyInput, hostWrite, hb]⟩
      | false =>
        cases sp with
        | reg =>
          by_cases h2 : ix = 2
          · exact .inr (.inl ⟨rfl, v, rest, by simp [applyInput, hostWrite, hb, h2]⟩)
          · by_cases h8 : ix = 8
            · subst h8
              exact .inr (.inr (.inr ⟨rfl, v, rest, rfl, by simp [applyInput, hostWrite, hb]⟩))
            · exact .inl ⟨s.ports, rest, s.trace, by simp [applyInput, hostWrite, hb, h2, h8]⟩
        | wbuf =>
          by_cases hx : ix < params.bufLen
          · exact .inr (.inr (.inl ⟨rfl, ix, v.setWidth 8, rest, hx, by
              simp only at hx; simp [applyInput, hostWrite, hb, hx]⟩))
          · exact .inl ⟨s.ports, rest, s.trace, by
              simp only at hx; simp [applyInput, hostWrite, hb, hx]⟩
        | rbuf => exact .inl ⟨s.ports, rest, s.trace, by simp [applyInput, hostWrite, hb]⟩
        | ring => exact .inl ⟨s.ports, rest, s.trace, by simp [applyInput, hostWrite, hb]⟩
    | timerOverflow => exact .inl ⟨_, rest, s.trace, rfl⟩
    | conversionDone d => exact .inl ⟨_, rest, s.trace, rfl⟩
    | busSample st => exact .inl ⟨_, rest, s.trace, rfl⟩
    | hostRead sp ix => exact .inl ⟨s.ports, rest, _, rfl⟩
    | rst l => exact .inl ⟨_, rest, s.trace, rfl⟩

/-- What the host reads does not depend on the inputs to come. -/
@[simp] theorem hostReadValue_inbox (sp : Space) (index : Nat) (s : State) (l : List Input) :
    hostReadValue sp index { s with inbox := l } = hostReadValue sp index s := by
  cases sp with
  | reg => unfold hostReadValue readRegister; split <;> rfl
  | _ => rfl

/-- Everything a step can do: hold the block in reset, run an operation (the one commanded or the one in progress),
refuse a command, or nothing beyond the input. -/
theorem step_cases {s t : State} (h : step s = .next t) :
    ((takeInput s).1.ports.rst = true ∧ t = blockReset (takeInput s).1) ∨
    ((takeInput s).1.ports.rst = false ∧
      ((∃ i, exec i (takeInput s).1 = .next t ∧
          ((∃ w, (takeInput s).2 = some w ∧ decode w = .ok i) ∨
            ((takeInput s).2 = none ∧ (takeInput s).1.seq.opr = some i))) ∨
        (t = refuseCommand (takeInput s).1 ∧ ∃ w e, (takeInput s).2 = some w ∧ decode w = .error e) ∨
        (t = (takeInput s).1 ∧ (takeInput s).2 = none ∧ (takeInput s).1.seq.opr = none))) := by
  unfold step at h
  cases hi : takeInput s with
  | mk u c =>
    rw [hi] at h
    cases hr : u.ports.rst with
    | true => exact .inl ⟨rfl, by simpa [hr] using h.symm⟩
    | false =>
      refine .inr ⟨rfl, ?_⟩
      cases c with
      | some w =>
        cases hd : decode w with
        | ok i => exact .inl ⟨i, by simpa [hr, hd] using h, .inl ⟨w, rfl, hd⟩⟩
        | error e => exact .inr (.inl ⟨by simpa [hr, hd] using h.symm, w, e, rfl, hd⟩)
      | none =>
        cases ho : u.seq.opr with
        | some i => exact .inl ⟨i, by simpa [hr, ho] using h, .inr ⟨rfl, rfl⟩⟩
        | none => exact .inr (.inr ⟨by simpa [hr, ho] using h.symm, rfl, rfl⟩)

/-! ### The receiver's layers -/

/-- A loop that comes to its wait for a tick with no conversion completed: it waits, or consumes a pending tick and
waits for the conversion. -/
theorem rxAdvance_awaitTick (g : Sample → State → State) (s : State) :
    (s.ports.tov = false ∧ rxAdvance startConversion g (awaitTick s) = awaitTick s) ∨
    (s.ports.tov = true ∧ rxAdvance startConversion g (awaitTick s) = tickTaken s) := by
  cases ht : s.ports.tov with
  | false => exact .inl ⟨rfl, rxAdvance_waiting _ _ (by simp [rxWaitOver, ht])⟩
  | true =>
    exact .inr ⟨rfl, by simp [rxAdvance, ht, tickTaken, startConversion, consumeTick, emit, awaitTick]⟩

/-- What an iteration of NEXT_EDGE leaves alone: all but the receiver. -/
theorem edgeIteration_eq (smp : Sample) (s : State) :
    edgeIteration smp s = ({ s with rx := (detect smp s.rx).1 }, (detect smp s.rx).2) := rfl

/-- The two outcomes of `detect`. -/
theorem detect_cases (smp : Sample) (r : Receiver) :
    (flips smp r = true ∧
      detect smp r = (commitFlip (countSample (foldSample smp r)), some (duration r.tick r.lastFlip))) ∨
    (flips smp r = false ∧ detect smp r = (countSample (foldSample smp r), none)) := by
  have hf : flips smp (foldSample smp r) = flips smp r := rfl
  have ht : (countSample (foldSample smp r)).tick = r.tick := by unfold countSample; split <;> rfl
  have hl : (countSample (foldSample smp r)).lastFlip = r.lastFlip := by unfold countSample; split <;> rfl
  cases h : flips smp r <;> simp [detect, hf, h, ht, hl]

/-- What counting a sample leaves alone. -/
theorem countSample_frame (r : Receiver) :
    (countSample r).tick = r.tick ∧ (countSample r).level = r.level ∧ (countSample r).lastFlip = r.lastFlip ∧
    (countSample r).ring = r.ring ∧ (countSample r).cur = r.cur := by
  unfold countSample; split <;> exact ⟨rfl, rfl, rfl, rfl, rfl⟩

/-- Everything an iteration of FULL_PERIOD can do. -/
theorem periodIteration_cases (smp : Sample) (s : State) :
    (flips smp s.rx = false ∧
      periodIteration smp s = ({ s with rx := countSample (foldSample smp s.rx) }, none)) ∨
    (flips smp s.rx = true ∧ s.seq.edgeNo = 0 ∧
      periodIteration smp s =
        ({ s with rx := commitFlip (countSample (foldSample smp s.rx)),
                  seq.d1 := duration s.rx.tick s.rx.lastFlip, seq.edgeNo := 1 }, none)) ∨
    (flips smp s.rx = true ∧ s.seq.edgeNo ≠ 0 ∧
      periodIteration smp s =
        ({ s with rx := commitFlip (countSample (foldSample smp s.rx)) },
          some (s.seq.d1 + duration s.rx.tick s.rx.lastFlip))) := by
  rcases detect_cases smp s.rx with ⟨hf, hd⟩ | ⟨hf, hd⟩
  · by_cases he : s.seq.edgeNo = 0
    · exact .inr (.inl ⟨hf, he, by simp [periodIteration, edgeIteration_eq, hd, he]⟩)
    · exact .inr (.inr ⟨hf, he, by simp only [periodIteration, edgeIteration_eq, hd]; rw [if_neg he]⟩)
  · simp [periodIteration, edgeIteration_eq, hd, hf]

/-- Everything an iteration of READ_PACKET can do. -/
theorem packetIteration_cases (smp : Sample) (s : State) :
    ((periodIteration smp s).2 = none ∧ packetIteration smp s = ((periodIteration smp s).1, none)) ∨
    (∃ m r, (periodIteration smp s).2 = some m ∧ r = pushPeriod m (periodIteration smp s).1.rx ∧
      ((∃ p, framePacket (newest r) (oldestFirst r) = some p ∧
          packetIteration smp s = ({ (periodIteration smp s).1 with rx := r, pkt := p }, some p)) ∨
       (framePacket (newest r) (oldestFirst r) = none ∧
          packetIteration smp s = ({ (periodIteration smp s).1 with rx := r, seq.edgeNo := 0 }, none)))) := by
  cases h : periodIteration smp s with
  | mk t o =>
    cases o with
    | none => exact .inl ⟨rfl, by simp [packetIteration, h]⟩
    | some m =>
      refine .inr ⟨m, pushPeriod m t.rx, rfl, rfl, ?_⟩
      cases hp : framePacket (newest (pushPeriod m t.rx)) (oldestFirst (pushPeriod m t.rx)) with
      | some p => exact .inl ⟨p, rfl, by simp [packetIteration, h, hp]⟩
      | none => exact .inr ⟨rfl, by simp [packetIteration, h, hp]⟩

/-- Everything DECODE does with `PKT`. -/
theorem decodePacket_cases (s : State) :
    (∃ c, recordOf s.pkt = some c ∧ decodePacket s = { s with cfg := c, flags.cfgValid := true }) ∨
    (recordOf s.pkt = none ∧ decodePacket s = { s with flags.cfgValid := false }) := by
  unfold decodePacket
  cases h : recordOf s.pkt with
  | some c => exact .inl ⟨c, rfl, rfl⟩
  | none => exact .inr ⟨rfl, rfl⟩

/-! ### Waits and samples, in the terms of Safety.lean -/

/-- One advance of the engine is enough when it ends in a wait that is not over. -/
theorem busRun_of {o : State → Nat → Byte} {s t : State} (h : busAdvance o s = t) (ht : busWaitOver t = false) :
    busRun o s = t := by
  simp [busRun, h, busAdvance_waiting o ht]

/-- An engine that has ended, or has just put a command on the port, waits. -/
theorem busWaitOver_of_cleared {t : State}
    (h : t.seq.bmeState = .idle ∨ (t.ports.bus.wif = false ∧ t.ports.bus.rif = false)) : busWaitOver t = false := by
  unfold busWaitOver addressDone
  rcases h with h | ⟨h1, h2⟩
  · simp [h]
  · cases hb : t.seq.bmeState <;> simp [h1, h2]

/-- The detector's test is `Crossing`. -/
theorem crossing_iff_flips (x : Sample) (r : Receiver) : Crossing x r ↔ flips x r = true := by
  unfold Crossing flips detEn
  cases r.level <;> simp [BitVec.lt_def]

/-- Folding and counting a sample is `SampleCounted`. -/
theorem sampleCounted_countSample (x : Sample) (r : Receiver) : SampleCounted x r (countSample (foldSample x r)) := by
  have hx := x.isLt
  have h1 := r.calMin.isLt
  have h2 := r.calMax.isLt
  have e1 : (foldSample x r).calMin.toNat = min r.calMin.toNat x.toNat := by
    simp only [foldSample_calMin]; split <;> rename_i h <;> rw [BitVec.lt_def] at h <;> omega
  have e2 : (foldSample x r).calMax.toNat = max r.calMax.toNat x.toNat := by
    simp only [foldSample_calMax]; split <;> rename_i h <;> rw [BitVec.lt_def] at h <;> omega
  unfold SampleCounted countSample
  simp only [foldSample_calPos]
  by_cases h : r.calPos.toNat + 1 = 1000
  · simp only [h, if_true, endWindow_calP2p, endWindow_thrLow, endWindow_thrHigh, endWindow_calMin, endWindow_calMax,
      endWindow_calPos, e1, e2, BitVec.toNat_ofNat, percentAbove]
    refine ⟨?_, ?_, ?_, trivial, trivial, trivial⟩ <;> omega
  · simp only [h, if_false, e1, e2]
    exact ⟨trivial, trivial, trivial, rfl, rfl, rfl⟩

/-- A concatenation as a number. -/
theorem append_toNat {a b : Nat} (x : BitVec a) (y : BitVec b) : (x ++ y).toNat = x.toNat * 2 ^ b + y.toNat := by
  rw [BitVec.toNat_append, ← Nat.shiftLeft_add_eq_or_of_lt y.isLt, Nat.shiftLeft_eq]

end Sys2Proof.Machine
end

