-- ==== Sys2Proof/Laws/PerInstr.lean ====
section
/-!
SUPPORT. The per-instruction family: the opcode field of every encoded operation is one of the nine defined opcodes, 0x1
to 0x9 (spec/30_encoding.md R101, R110).
-/
namespace Sys2Proof.Laws

/-- The encoded operation carries a defined opcode. -/
def EncodedOpcode.Statement (i : Instr) : Prop := 1 ≤ (opField (encode i)).toNat ∧ (opField (encode i)).toNat ≤ 9

/-- The opcode field of a format T or W word. -/
theorem opField_encodeTW (op : BitVec 4) (a : BusAddr) (hi lo : Byte) : opField (encodeTW op a hi lo) = op := by
  unfold opField encodeTW
  ext k hk
  simp only [BitVec.getElem_extractLsb', BitVec.getLsbD_append]
  simp [show ¬(28 + k < 8) by omega, show ¬(28 + k - 8 < 8) by omega, show ¬(28 + k - 8 - 8 < 4) by omega,
    show ¬(28 + k - 8 - 8 - 4 < 7) by omega, show ¬(28 + k - 8 - 8 - 4 - 7 < 1) by omega,
    show 28 + k - 8 - 8 - 4 - 7 - 1 = k by omega, BitVec.getLsbD_eq_getElem hk]

theorem EncodedOpcode.waitTick : EncodedOpcode.Statement .waitTick := by unfold Statement; decide
theorem EncodedOpcode.sample : EncodedOpcode.Statement .sample := by unfold Statement; decide
theorem EncodedOpcode.nextEdge : EncodedOpcode.Statement .nextEdge := by unfold Statement; decide
theorem EncodedOpcode.fullPeriod : EncodedOpcode.Statement .fullPeriod := by unfold Statement; decide
theorem EncodedOpcode.readPacket : EncodedOpcode.Statement .readPacket := by unfold Statement; decide
theorem EncodedOpcode.decode : EncodedOpcode.Statement .decode := by unfold Statement; decide
theorem EncodedOpcode.decodeConfig : EncodedOpcode.Statement .decodeConfig := by unfold Statement; decide
theorem EncodedOpcode.busXact (a : BusAddr) (w r : Byte) : EncodedOpcode.Statement (.busXact a w r) := by
  unfold Statement; simp only [encode, opField_encodeTW]; decide
theorem EncodedOpcode.regWrite (a : BusAddr) (r v : Byte) : EncodedOpcode.Statement (.regWrite a r v) := by
  unfold Statement; simp only [encode, opField_encodeTW]; decide

end Sys2Proof.Laws
end

