-- ==== Sys2Proof/Tests/Slice0.lean ====
section
/-!
SUPPORT. The model's own tests, each from a vector of spec/95_test_vectors.md or an example of the rule it names, and a
witness for every obligation that has hypotheses: a concrete state and operands that meet all of them together.
-/
namespace Sys2Proof.Tests
open Sys2Proof Sys2Proof.Machine

/-! ### Helpers -/

/-- The state an outcome answers (`d` for a stop, which never happens). -/
def state (d : State) : Host.Outcome State Fault Refusal → State
  | .next t => t
  | .fault _ => d
  | .refused _ => d

/-- The reset state with inputs to come. -/
def idle (inputs : List Input) : State := { State.reset with inbox := inputs }

/-- The host writes a command word. -/
def command (w : Word) : Input := .hostWrite .reg 8 w

/-- Operation `i` in progress, its receiver suspended at `rs`. -/
def running (i : Instr) (rs : RxState) : State :=
  { State.reset with cmd := encode i, flags.busy := true, seq.opr := some i, seq.rxState := rs }

/-- A receiver with detection on: a window of 100 to 300 gave the thresholds 160 and 240 (R163). -/
def lit : Receiver :=
  { Receiver.reset with
    tick := 51, lastFlip := 40, calP2p := 200, thrLow := 160, thrHigh := 240, calPos := 7, calMin := 100, calMax := 300 }

/-- Operation `i` with a reading ready, detection on, level 0. -/
def reading (i : Instr) (smp : Sample) : State :=
  { running i .waitAdc with rx := lit, ports.adcDone := true, ports.adcData := smp }

/-- A ring whose entries from index 0 are the periods of a packet's bits, 40 for 0 and 120 for 1 (R190). -/
def ringOf (p : Word) : Vector Tick 32 := Vector.ofFn fun k => if p.getLsbD (31 - k) then 120 else 40

/-- The ring of a packet, the cursor at its first bit. -/
def aligned (p : Word) : Receiver := { lit with ring := ringOf p, cur := 0 }

/-- A receiver operation at the reading that ends a period of `2 · half` ticks, the last bit of packet `p`. -/
def lastBit (i : Instr) (p : Word) (half : Tick) : State :=
  { reading i 100 with
    rx := { lit with level := true, ring := ringOf p, cur := 31, tick := 40 + half }, seq.edgeNo := 1, seq.d1 := half }

/-- Bus operation `i` at engine state `b`, the Bus port showing `st`. -/
def onBus (i : Instr) (wlen rlen : Byte) (b : BmeState) (st : BusSample) : State :=
  { running i .idle with
    ports.bus := st, wbuf := [(0, 0x10), (1, 0x20), (2, 0x30)],
    seq.bmeState := b, seq.xaddr := 0x28, seq.xwlen := wlen, seq.xrlen := rlen, seq.xok := true }

/-- A completed write sample; `nack` is `RXACK`. -/
def wrote (nack : Bool) : BusSample := { BusSample.quiet with wif := true, rxack := nack }

/-- A completed read sample. -/
def got (b : Byte) : BusSample := { BusSample.quiet with rif := true, rdata := b }

/-- An address phase that lost arbitration. -/
def lost : BusSample := { BusSample.quiet with wif := true, arblost := true }

/-! ### Well-formedness, decoding, refusals (spec/95_test_vectors.md V-X) -/

theorem test_zero_length_transaction_is_ill_formed : (Instr.busXact 0x28 0 0).wellFormed = false := by decide
theorem test_one_length_is_well_formed :
    (Instr.busXact 0x28 1 0).wellFormed = true ∧ (Instr.busXact 0x28 0 1).wellFormed = true := by decide

theorem test_decode_waitTick : decode 0b00010000000000000000000000000000 = .ok .waitTick := rfl
theorem test_decode_sample : decode 0b00100000000000000000000000000000 = .ok .sample := rfl
theorem test_decode_nextEdge : decode 0b00110000000000000000000000000000 = .ok .nextEdge := rfl
theorem test_decode_fullPeriod : decode 0b01000000000000000000000000000000 = .ok .fullPeriod := rfl
theorem test_decode_readPacket : decode 0b01010000000000000000000000000000 = .ok .readPacket := rfl
theorem test_decode_decode : decode 0b01100000000000000000000000000000 = .ok .decode := rfl
theorem test_decode_decodeConfig : decode 0b01110000000000000000000000000000 = .ok .decodeConfig := rfl
theorem test_decode_busXact : decode 0b10000010100000000000000100000010 = .ok (.busXact 0x28 1 2) := rfl
theorem test_decode_busXact_all_ones : decode 0x87F0FFFF = .ok (.busXact 0x7F 255 255) := rfl
theorem test_decode_regWrite : decode 0b10010010100000000001101000100110 = .ok (.regWrite 0x28 0x1A 0x26) := rfl
theorem test_decode_regWrite_address_0 : decode 0x9000FFFF = .ok (.regWrite 0 0xFF 0xFF) := rfl
theorem test_reserved_opcodes :
    decode 0x00000000 = .error .reservedOpcode ∧ decode 0xA0000000 = .error .reservedOpcode ∧
    decode 0xF0000000 = .error .reservedOpcode := ⟨rfl, rfl, rfl⟩
theorem test_reserved_bits :
    decode 0x30000001 = .error .reservedBits ∧ decode 0x8A800100 = .error .reservedBits ∧
    decode 0x82810100 = .error .reservedBits ∧ decode 0x9A801A26 = .error .reservedBits := ⟨rfl, rfl, rfl, rfl⟩

/-- V-X: 0x82800000 is refused with `CMD_ERR` (STATUS 0x04) and read back; a word to a busy block changes nothing. -/
theorem test_refusal_and_busy :
    hostReadValue .reg 0 (state .reset (step (idle [command 0x82800000]))) = 0x04 ∧
    (state .reset (step (idle [command 0x82800000]))).cmd = 0x82800000 ∧
    (state .reset (step { running .nextEdge .waitTick with inbox := [command 0] })).cmd = 0x30000000 := by decide

/-- The fetch word starts its operation in the very next step. -/
theorem test_withFetchWord : (state .reset (step (State.reset.withFetchWord 32 0x10000000))).seq.opr = some .waitTick := by
  decide

/-! ### Receiver operations -/

/-- T2: `TICK = 65535`, `TOV = 1`: `TICK = 0`, `TOV = 0`. -/
theorem test_waitTick_wraps :
    let t := state .reset (exec .waitTick { running .waitTick .waitTick with rx.tick := 65535, ports.tov := true })
    t.rx.tick = 0 ∧ t.ports.tov = false ∧ t.flags.busy = false := by decide

/-- T3: without `TOV` the operation stays. -/
theorem test_waitTick_stuck : exec .waitTick (running .waitTick .waitTick) = .next (running .waitTick .waitTick) := rfl

/-- T4: `ADC_DATA = 0x12C`: `RES = 0x012C`, `ADC_DONE = 0`, `TICK = 0`. -/
theorem test_sample :
    let t := state .reset (exec .sample { running .sample .waitAdc with ports.adcDone := true, ports.adcData := 0x12C })
    t.res = 0x012C ∧ t.ports.adcDone = false ∧ t.rx = .reset := by decide

/-- R163: 250 is above 240: `LEVEL = 1`, `RES = dur(51, 40) = 11`; 240 itself is not (R162). -/
theorem test_nextEdge_flips :
    (state .reset (exec .nextEdge (reading .nextEdge 250))).res = 11 ∧
    (state .reset (exec .nextEdge (reading .nextEdge 250))).rx.level = true ∧
    (state .reset (exec .nextEdge (reading .nextEdge 240))).rx.level = false := by decide

/-- L-E: a flip in the iteration that ends a window: tested with the old thresholds, 170 and 330 after it. -/
theorem test_nextEdge_window_end :
    let s := { reading .nextEdge 250 with
      rx := { lit with tick := 3000, lastFlip := 2990, calPos := 999, calMin := 50, calMax := 450 } }
    let t := state .reset (exec .nextEdge s)
    t.res = 10 ∧ t.rx.thrLow = 170 ∧ t.rx.thrHigh = 330 ∧ t.rx.calP2p = 400 ∧ t.rx.calPos = 0 := by decide

/-- V-P: half-periods 40000 and 30000 give 4464. -/
theorem test_fullPeriod_sum :
    let s := { reading .fullPeriod 250 with
      rx := { lit with tick := 30040 }, seq.edgeNo := 1, seq.d1 := 40000 }
    (state .reset (exec .fullPeriod s)).res = 4464 := by decide

/-- F-1, R190: the ring of `12 83 23 5F` frames when its last bit's period comes in. -/
theorem test_readPacket_frames :
    (state .reset (exec .readPacket (lastBit .readPacket 0x1283235F 60))).pkt = 0x1283235F := by decide +kernel

/-- One bit wrong: a checksum mismatch, the operation goes on. -/
theorem test_readPacket_discards :
    let t := state .reset (exec .readPacket (lastBit .readPacket 0x1283235F 20))
    t.pkt = 0 ∧ t.flags.busy = true ∧ t.rx.cur = 0 := by decide +kernel

/-- R200: `PKT = 0x1283235F` gives `CFG = 0x04CC84B4`. -/
theorem test_decode_record :
    hostReadValue .reg 3 (state .reset (exec .decode { State.reset with pkt := 0x1283235F })) = 0x04CC84B4 := by decide

/-- P4 step 3: byte 0 bit 7 set: `CFG_VALID = 0`, `CFG` unchanged. -/
theorem test_decode_discards :
    let t := state .reset (exec .decode { State.reset with pkt := 0x9283FB46, cfg.v1 := 180, flags.cfgValid := true })
    t.flags.cfgValid = false ∧ t.cfg.v1 = 180 := by decide

/-- V-E4: `92 83 FB 46` frames, does not decode, and is not returned. -/
theorem test_decodeConfig_goes_on :
    let t := state .reset (exec .decodeConfig (lastBit .decodeConfig 0x9283FB46 20))
    t.pkt = 0x9283FB46 ∧ t.flags.cfgValid = false ∧ t.flags.busy = true := by decide +kernel

/-- V-E1: the last bit of `12 83 23 5F` ends it with the record. -/
theorem test_decodeConfig_returns :
    let t := state .reset (exec .decodeConfig (lastBit .decodeConfig 0x1283235F 60))
    hostReadValue .reg 3 t = 0x04CC84B4 ∧ hostReadValue .reg 0 t = 0x30 := by decide +kernel

/-- S1, R186, V-C, V-F: durations, bit reversal, checksums, split thresholds. -/
theorem test_duration : duration 10 65530 = 16 ∧ duration 0 1 = 65535 ∧ duration 100 40 = 60 := by decide
theorem test_bitrev8 : bitrev8 0x12 = 0x48 ∧ bitrev8 0xC4 = 0x23 ∧ bitrev8 0xA5 = 0xA5 := by decide
theorem test_crc16 :
    crc16 [0x12, 0x83] = 0xC4FA ∧ crc16 [0xFF, 0xFF] = 0x1D0F ∧
    crc16 [0x31, 0x32, 0x33, 0x34, 0x35, 0x36, 0x37, 0x38, 0x39] = 0x31C3 := by decide +kernel
theorem test_split : splitLow [40, 105] = 62 ∧ splitHigh [40, 105] = 82 ∧ splitHigh [0, 65535] = 42597 := by decide

/-! ### Bus operations -/

/-- B6: both fault statuses at the address: `P_CLRERR`, no `P_STOP`. -/
theorem test_busXact_address_fault :
    let s := onBus (.busXact 0x28 3 0) 3 0 .addrW { lost with buserr := true }
    busTrace (state .reset (exec (.busXact 0x28 3 0) s)) = [.pClrerr] := by decide

/-- B8: a read address phase that ends with `RIF`: the same sample serves the byte. -/
theorem test_busXact_read :
    let t := state .reset (exec (.busXact 0x28 0 1) (onBus (.busXact 0x28 0 1) 0 1 .addrR (got 0xA7)))
    busTrace t = [.pRxnext true, .pStop] ∧ t.rbuf = [(0, 0xA7)] ∧ t.flags.busOk = true := by decide

/-- B15: after the acknowledged register byte the value byte goes out. -/
theorem test_regWrite_value_second :
    let s := onBus (.regWrite 0x28 0x1A 0x26) 2 0 .wrByte (wrote false)
    busTrace (state .reset (exec (.regWrite 0x28 0x1A 0x26) s)) = [.pWdata 0x26] := by decide

/-! ### Witnesses: commands and reset -/

theorem witness_DecodedWordIsTheEncodingOfItsInstruction : decode 0x92801A26 = .ok (.regWrite 0x28 0x1A 0x26) := rfl

theorem witness_StepRunsTheDecodedInstruction :
    let s := idle [command 0x20000000, .timerOverflow]
    s.flags.busy = false ∧ s.ports.rst = false ∧ s.inbox = .hostWrite .reg 8 0x20000000 :: [.timerOverflow] ∧
    decode 0x20000000 = .ok .sample := ⟨rfl, rfl, rfl, rfl⟩

theorem witness_StepResumesTheRunningOperation :
    let s := { running .nextEdge .waitTick with inbox := [command 0] }
    Running .nextEdge s ∧ (takeInput s).1.ports.rst = false ∧ s.inbox = .hostWrite .reg 8 0 :: [] := by decide

/-- One witness per clause: a reserved opcode low and high, reserved bits of formats N, T and W. -/
theorem witness_RefusedWordsOnlySetCmdErr :
    (idle [command 0]).flags.busy = false ∧ (idle [command 0]).ports.rst = false ∧
    opField 0 = 0 ∧ 10 ≤ (opField 0xA0000000).toNat ∧
    ((opField 0x7FFFFFFF).toNat < 8 ∧ lowField 0x7FFFFFFF ≠ 0) ∧
    ((bit27Field 0x88000001 ≠ 0 ∨ bits19Field 0x88000001 ≠ 0) ∧ 8 ≤ (opField 0x88000001).toNat) ∧
    ((bit27Field 0x90010000 ≠ 0 ∨ bits19Field 0x90010000 ≠ 0) ∧ 8 ≤ (opField 0x90010000).toNat) ∧
    0x82800000 = encode (.busXact 0x28 0 0) := by decide

theorem witness_ZeroLengthTransactionIsRefused :
    State.reset.flags.busy = false ∧ ((0 : Byte) = 0 ∧ (0 : Byte) = 0) ∧ ¬((1 : Byte) = 0 ∧ (0 : Byte) = 0) ∧
    ¬((0 : Byte) = 0 ∧ (1 : Byte) = 0) := by decide

theorem witness_AwaitTakesNoStepBeforeItsCondition :
    Running .nextEdge (running .nextEdge .waitAdc) ∧ waitOver (running .nextEdge .waitAdc) = false := by decide

theorem witness_IdleBlockWaitsForTheFirstCommand :
    let s := { State.reset with rx := lit }
    s.flags.busy = false ∧ s.seq.opr = none ∧ s.ports.rst = false ∧ s.inbox = [] := by decide

theorem witness_AssertedResetGivesTheResetValues :
    ({ running .nextEdge .waitTick with inbox := [.rst true] } : State).inbox = .rst true :: [] := rfl

theorem witness_HeldResetAcceptsNothing :
    let s := { idle [command 0x10000000] with ports.rst := true }
    s.ports.rst = true ∧ command 0x10000000 ≠ .rst false ∧ s.inbox = command 0x10000000 :: [] := by decide

/-- A transaction in progress with a byte in each buffer, in the middle of a window, that takes a step. -/
theorem witness_EveryStepKeepsTheInvariant :
    let s := { onBus (.busXact 0x28 3 2) 3 2 .wrByte (wrote false) with rx := lit, rbuf := [(255, 1)] }
    Inv s ∧ step s = .next (state s (step s)) := ⟨by decide, rfl⟩

theorem witness_AfterAStepTheBlockWaits :
    let s := { running .nextEdge .waitTick with rx := lit, ports.tov := true }
    Inv s ∧ waitOver s = true ∧ step s = .next (state s (step s)) := ⟨by decide, by decide, rfl⟩

/-! ### Witnesses: the receiver -/

theorem witness_WaitTickWaitsForTovAndCountsIt :
    let s := { State.reset with ports.tov := true }
    let u := { running .waitTick .waitTick with ports.tov := true }
    let v := running .waitTick .waitTick
    (State.reset.flags.busy = false ∧ State.reset.ports.tov = false) ∧
    (Running .waitTick v ∧ v.seq.rxState = .waitTick ∧ v.ports.tov = false) ∧
    (s.flags.busy = false ∧ s.ports.tov = true) ∧
    (Running .waitTick u ∧ u.seq.rxState = .waitTick ∧ u.ports.tov = true) := by decide

theorem witness_SampleReturnsTheReading :
    let s := { State.reset with ports.adcDone := true }
    let u := reading .sample 1023
    let v := running .sample .waitAdc
    (State.reset.flags.busy = false ∧ State.reset.ports.adcDone = false) ∧
    (Running .sample v ∧ v.seq.rxState = .waitAdc ∧ v.ports.adcDone = false) ∧
    (Running .sample u ∧ u.seq.rxState = .waitAdc ∧ u.ports.adcDone = true) ∧
    (s.flags.busy = false ∧ s.ports.adcDone = true) := by decide

theorem witness_TickCountsConsumedOverflows :
    let s := { running .nextEdge .waitTick with inbox := [.timerOverflow] }
    step s = .next (state s (step s)) ∧ (takeInput s).1.ports.rst = false := ⟨rfl, rfl⟩

/-- Each clause: no tick, a tick pending, and a stale completion beside it, at acceptance and at the wait. -/
theorem witness_ReceiverLoopsTakeATickThenAConversion :
    let s := { State.reset with ports.tov := true }
    let s' := { State.reset with ports.tov := true, ports.adcDone := true }
    let u := { running .decodeConfig .waitTick with ports.tov := true }
    let u' := { running .nextEdge .waitTick with ports.tov := true, ports.adcDone := true }
    (State.reset.flags.busy = false ∧ State.reset.ports.tov = false) ∧
    (s.flags.busy = false ∧ s.ports.tov = true ∧ s.ports.adcDone = false) ∧
    (s'.flags.busy = false ∧ s'.ports.tov = true ∧ s'.ports.adcDone = true) ∧
    (Running .decodeConfig u ∧ u.seq.rxState = .waitTick ∧ u.ports.tov = true ∧ u.ports.adcDone = false) ∧
    (Running .nextEdge u' ∧ u'.seq.rxState = .waitTick ∧ u'.ports.tov = true ∧ u'.ports.adcDone = true) := by decide

/-- A stale completion is taken in the step of the tick: R163's flip with the tick counted first, `dur(52, 40) = 12`. -/
theorem test_nextEdge_stale_completion :
    let t := state .reset (exec .nextEdge { reading .nextEdge 250 with ports.tov := true, seq.rxState := .waitTick })
    t.res = 12 ∧ t.flags.busy = false ∧ t.trace = [.tovClr, .adcStart] := by decide

/-- A tick that is up when the loop comes to wait for it is consumed at once (R140 corner case). -/
theorem test_nextEdge_pending_tick :
    let t := state .reset (exec .nextEdge { reading .nextEdge 240 with ports.tov := true })
    t.rx.tick = 52 ∧ t.seq.rxState = .waitAdc ∧ t.ports.tov = false ∧ t.ports.adcDone = false := by decide

theorem crossing_250 : Crossing 250 lit := by unfold Crossing; decide
theorem no_crossing_240 : ¬Crossing 240 lit := by unfold Crossing; decide
theorem crossing_100_down : Crossing 100 { lit with level := true } := by unfold Crossing; decide

theorem witness_NextEdgeReturnsTheDurationOnACrossing :
    let s := reading .nextEdge 250
    (Running .nextEdge s ∧ s.seq.rxState = .waitAdc ∧ s.ports.adcDone = true) ∧ Crossing s.ports.adcData s.rx :=
  ⟨by decide, crossing_250⟩

/-- `TOV` up or not, at each branch of `GoesRound`. -/
theorem witness_ReceiverLoopsGoOnWithoutACrossing :
    let s := reading .nextEdge 240
    let u := { s with ports.tov := true }
    (Running .nextEdge s ∧ s.seq.rxState = .waitAdc ∧ s.ports.adcDone = true ∧ s.ports.tov = false) ∧
    (Running .nextEdge u ∧ u.seq.rxState = .waitAdc ∧ u.ports.adcDone = true ∧ u.ports.tov = true) ∧
    ¬Crossing s.ports.adcData s.rx ∧ ¬Crossing u.ports.adcData u.rx :=
  ⟨by decide, by decide, no_crossing_240, no_crossing_240⟩

theorem witness_FoldedWindowHoldsMinimumAndMaximum :
    Receiver.reset.calMin = 1023 ∧ Receiver.reset.calMax = 0 ∧ [(5 : Sample), 7] ≠ [] := by decide

theorem witness_WindowEndSetsThresholdsInsideTheWindow :
    let r := { lit with calPos := 999 }
    r.calMin ≤ r.calMax ∧ r.calPos.toNat = 999 := by decide

theorem witness_LevelMovesOnlyOnACrossing :
    let s := reading .nextEdge 250
    sequencingOk s = true ∧ step s = .next (state s (step s)) ∧ (takeInput s).1.ports.rst = false :=
  ⟨by decide, rfl, rfl⟩

/-- The last sample of a window with detection off. -/
theorem witness_NoEdgeWhileDetectionIsOff :
    let s := { running .nextEdge .waitTick with
      rx := { lit with calP2p := 100, calPos := 999 }, inbox := [(300 : Sample)].flatMap iterationInputs }
    Running .nextEdge s ∧ s.seq.rxState = .waitTick ∧ s.ports.tov = false ∧ s.ports.adcDone = false ∧
    s.ports.rst = false ∧ s.rx.calP2p.toNat ≤ 100 ∧ s.rx.calPos.toNat + [(300 : Sample)].length ≤ 1000 ∧
    s.inbox = [(300 : Sample)].flatMap iterationInputs := by decide

theorem witness_FirstCrossingEndsNextEdge :
    let s := { running .nextEdge .waitTick with rx := lit, inbox := ([240] ++ [250]).flatMap iterationInputs }
    (Running .nextEdge s ∧ s.seq.rxState = .waitTick ∧ s.ports.tov = false ∧ s.ports.adcDone = false ∧
      s.ports.rst = false) ∧ (∀ x ∈ [(240 : Sample)], ¬Crossing x s.rx) ∧ Crossing 250 s.rx ∧
    s.rx.calPos.toNat + [(240 : Sample)].length < 1000 ∧ s.inbox = ([240] ++ [250]).flatMap iterationInputs :=
  ⟨by decide, by simpa using no_crossing_240, crossing_250, by decide, rfl⟩

theorem witness_FirstEdgeOfAPeriodIsKept :
    let s := { reading .fullPeriod 250 with ports.tov := true }
    (Running .fullPeriod s ∧ s.seq.rxState = .waitAdc ∧ s.ports.adcDone = true ∧ s.ports.tov = true) ∧
    Crossing s.ports.adcData s.rx ∧ s.seq.edgeNo = 0 := ⟨by decide, crossing_250, rfl⟩

theorem witness_FullPeriodReturnsTheSumModulo65536 :
    let s := { reading .fullPeriod 250 with seq.edgeNo := 1, seq.d1 := 65535 }
    (Running .fullPeriod s ∧ s.seq.rxState = .waitAdc ∧ s.ports.adcDone = true) ∧
    Crossing s.ports.adcData s.rx ∧ s.seq.edgeNo = 1 := ⟨by decide, crossing_250, rfl⟩

theorem witness_DarkFirstCellMeasuresAsItsLength :
    let s := { running .fullPeriod .waitTick with
      rx := { lit with tick := 40 }
      inbox := ((cellSamples .darkFirst 1 2 100 300).drop 1 ++ [100]).flatMap iterationInputs }
    Running .fullPeriod s ∧ s.seq.rxState = .waitTick ∧ s.seq.edgeNo = 0 ∧ s.ports.tov = false ∧
    s.ports.adcDone = false ∧ s.ports.rst = false ∧ s.rx.level = false ∧ s.rx.lastFlip = s.rx.tick ∧
    100 < s.rx.calP2p.toNat ∧ (100 : Sample).toNat < s.rx.thrLow.toNat ∧ s.rx.thrHigh.toNat < (300 : Sample).toNat ∧
    s.rx.thrLow.toNat ≤ s.rx.thrHigh.toNat ∧ s.rx.calPos.toNat + 1 + 2 ≤ 1000 ∧
    s.inbox = ((cellSamples .darkFirst 1 2 100 300).drop 1 ++ [100]).flatMap iterationInputs := by decide

theorem witness_FramedPacketIsTheClassifiedRing :
    (oldestFirst (aligned 0x1283235F)).length = 32 ∧
    framePacket (newest (aligned 0x1283235F)) (oldestFirst (aligned 0x1283235F)) = some 0x1283235F := by decide +kernel

theorem witness_EveryPayloadFramesWhenItsPeriodsAreClear :
    let r := aligned 0x1283235F
    20 ≤ splitHigh (newest r) - splitLow (newest r) ∧
    ∀ k : BitVec 5, if (packetOf 0x12 0x83).getLsbD (31 - k.toNat) = true
      then splitHigh (newest r) ≤ (ringGet r.ring (r.cur + k)).toNat
      else (ringGet r.ring (r.cur + k)).toNat ≤ splitLow (newest r) := by decide +kernel

theorem witness_SingleBitCorruptionFailsTheChecksum :
    (0 : Nat) < 32 ∧ (31 : Nat) < 32 ∧ packetOf 0x12 0x83 = 0x1283235F := by decide +kernel

theorem witness_ReadPacketReturnsAValidCandidate :
    let s := lastBit .readPacket 0x1283235F 60
    (Running .readPacket s ∧ s.seq.rxState = .waitAdc ∧ s.ports.adcDone = true ∧ s.seq.edgeNo = 1) ∧
    Crossing s.ports.adcData s.rx ∧
    (let r := pushPeriod (s.seq.d1 + (s.rx.tick - s.rx.lastFlip)) s.rx
     framePacket (newest r) (oldestFirst r) = some 0x1283235F) :=
  ⟨by decide +kernel, by unfold Crossing; decide, by decide +kernel⟩

theorem witness_ReadPacketDiscardsSilently :
    let s := { lastBit .readPacket 0x1283235F 20 with ports.tov := true }
    (Running .readPacket s ∧ s.seq.rxState = .waitAdc ∧ s.ports.adcDone = true ∧ s.ports.tov = true ∧
      s.seq.edgeNo = 1) ∧ Crossing s.ports.adcData s.rx ∧
    (let r := pushPeriod (s.seq.d1 + (s.rx.tick - s.rx.lastFlip)) s.rx
     framePacket (newest r) (oldestFirst r) = none) :=
  ⟨by decide +kernel, by unfold Crossing; decide, by decide +kernel⟩

/-- One witness per clause: a packet that decodes, and one for each reason to discard, at the boundary (R205). -/
theorem witness_DecodeWritesTheRecordOrDiscards :
    State.reset.flags.busy = false ∧
    ((0x4FCF0000 : Word).getLsbD 31 = false ∧ (pktV1 0x4FCF0000).toNat ≤ 4 ∧ pktI1 0x4FCF0000 ≠ 0 ∧
      (pktV2 0x4FCF0000).toNat ≤ 4 ∧ pktI2 0x4FCF0000 ≠ 0) ∧
    (0x92830000 : Word).getLsbD 31 = true ∧ 4 < (pktV1 0x52830000).toNat ∧ pktI1 0x10830000 = 0 ∧
    4 < (pktV2 0x12D30000).toNat ∧ pktI2 0x12800000 = 0 := by decide

theorem witness_DecodeConfigReturnsTheRecord :
    let s := lastBit .decodeConfig 0x1283235F 60
    (Running .decodeConfig s ∧ s.seq.rxState = .waitAdc ∧ s.ports.adcDone = true ∧ s.seq.edgeNo = 1) ∧
    Crossing s.ports.adcData s.rx ∧
    (let r := pushPeriod (s.seq.d1 + (s.rx.tick - s.rx.lastFlip)) s.rx
     framePacket (newest r) (oldestFirst r) = some 0x1283235F) ∧
    recordOf 0x1283235F = some { v1 := 180, i1 := 2, v2 := 100, i2 := 3, reqPd := true } :=
  ⟨by decide +kernel, by unfold Crossing; decide, by decide +kernel, by decide +kernel⟩

theorem witness_DecodeConfigAsksForAnotherPacket :
    let s := { lastBit .decodeConfig 0x9283FB46 20 with ports.tov := true }
    (Running .decodeConfig s ∧ s.seq.rxState = .waitAdc ∧ s.ports.adcDone = true ∧ s.ports.tov = true ∧
      s.seq.edgeNo = 1) ∧ Crossing s.ports.adcData s.rx ∧
    (let r := pushPeriod (s.seq.d1 + (s.rx.tick - s.rx.lastFlip)) s.rx
     framePacket (newest r) (oldestFirst r) = some 0x9283FB46) ∧ recordOf 0x9283FB46 = none :=
  ⟨by decide +kernel, by unfold Crossing; decide, by decide +kernel, by decide +kernel⟩

/-- A step that changes `CFG`. -/
theorem witness_CfgChangesOnlyByASuccessfulDecode :
    let s := { idle [command 0x60000000] with pkt := 0x1283235F }
    step s = .next (state s (step s)) ∧ (takeInput s).1.ports.rst = false ∧ (state s (step s)).cfg ≠ s.cfg :=
  ⟨rfl, rfl, by decide⟩

/-! ### Witnesses: the bus engine -/

/-- Both shapes of BUS_XACT; the hypothesis on the state is that of an idle block. -/
theorem witness_TransactionStartsWithItsAddressByte :
    State.reset.flags.busy = false ∧ (255 : Byte) ≠ 0 ∧ (0 : Byte) = 0 ∧ (1 : Byte) ≠ 0 := by decide

theorem witness_WriteAddressFaultFailsWithoutStop :
    let s := onBus (.regWrite 0x28 0x1A 0x26) 2 0 .addrW lost
    (Instr.regWrite 0x28 0x1A 0x26).isReceiver = false ∧ Running (.regWrite 0x28 0x1A 0x26) s ∧
    s.seq.bmeState = .addrW ∧ (s.ports.bus.wif = true ∨ s.ports.bus.rif = true) ∧
    (s.ports.bus.arblost = true ∨ s.ports.bus.buserr = true) := by decide

/-- Each clause, with an address byte that was not acknowledged (B7). -/
theorem witness_WriteLoopBeginsAfterAClearAddress :
    let s := onBus (.busXact 0x28 3 0) 3 0 .addrW (wrote true)
    let u := onBus (.regWrite 0x28 0x1A 0x26) 2 0 .addrW (got 0)
    (s.seq.bmeState = .addrW ∧ (s.ports.bus.wif = true ∨ s.ports.bus.rif = true) ∧ s.ports.bus.arblost = false ∧
      s.ports.bus.buserr = false ∧ Running (.busXact 0x28 3 0) s) ∧
    (u.seq.bmeState = .addrW ∧ (u.ports.bus.wif = true ∨ u.ports.bus.rif = true) ∧ u.ports.bus.arblost = false ∧
      u.ports.bus.buserr = false ∧ Running (.regWrite 0x28 0x1A 0x26) u) := by decide

theorem witness_NackStopsAndFails :
    let s := onBus (.busXact 0x28 3 0) 3 0 .wrByte (wrote true)
    (Instr.busXact 0x28 3 0).isReceiver = false ∧ Running (.busXact 0x28 3 0) s ∧ s.seq.bmeState = .wrByte ∧
    s.ports.bus.wif = true ∧ s.ports.bus.rxack = true := by decide

/-- Each clause: byte 254 of 255 next, the last byte before a read, the last byte of a write. -/
theorem witness_AcknowledgedByteGoesOnOrEndsTheTransaction :
    let s := { onBus (.busXact 0x28 255 0) 255 0 .wrByte (wrote false) with seq.bidx := 253 }
    let s' := { onBus (.busXact 0x28 255 0) 255 0 .wrByte (wrote false) with seq.bidx := 254 }
    let r := onBus (.busXact 0x28 1 2) 1 2 .wrByte (wrote false)
    let u := onBus (.regWrite 0x28 0x1A 0x26) 2 0 .wrByte (wrote false)
    let u' := { onBus (.regWrite 0x28 0x1A 0x26) 2 0 .wrByte (wrote false) with seq.bidx := 1 }
    (∀ x ∈ [s, s', r, u, u'], x.seq.bmeState = .wrByte ∧ x.ports.bus.wif = true ∧ x.ports.bus.rxack = false) ∧
    (s.seq.bidx.toNat + 1 < s.seq.xwlen.toNat ∧ Running (.busXact 0x28 255 0) s) ∧
    (u.seq.bidx.toNat + 1 < u.seq.xwlen.toNat ∧ Running (.regWrite 0x28 0x1A 0x26) u) ∧
    (r.seq.bidx.toNat + 1 = r.seq.xwlen.toNat ∧ r.seq.xrlen ≠ 0 ∧ Running (.busXact 0x28 1 2) r) ∧
    (s'.seq.bidx.toNat + 1 = s'.seq.xwlen.toNat ∧ s'.seq.xrlen = 0 ∧ Running (.busXact 0x28 255 0) s') ∧
    (u'.seq.bidx.toNat + 1 = u'.seq.xwlen.toNat ∧ u'.seq.xrlen = 0 ∧ Running (.regWrite 0x28 0x1A 0x26) u') := by decide

theorem witness_ReadAddressFaultFailsWithStop :
    let s := onBus (.busXact 0x28 1 2) 1 2 .addrR lost
    Running (.busXact 0x28 1 2) s ∧ s.seq.bmeState = .addrR ∧ (s.ports.bus.wif = true ∨ s.ports.bus.rif = true) ∧
    (s.ports.bus.arblost = true ∨ s.ports.bus.buserr = true) := by decide

/-- Both branches: a byte with one more pending, and the last one. -/
theorem witness_ReadByteIsCapturedAndAnswered :
    let s := onBus (.busXact 0x28 0 2) 0 2 .rdByte (got 0xAB)
    let u := { s with seq.bidx := 1 }
    Running (.busXact 0x28 0 2) s ∧ s.seq.bmeState = .rdByte ∧ s.ports.bus.rif = true ∧ s.rbuf.wf ∧
    s.seq.bidx.toNat + 1 < s.seq.xrlen.toNat ∧
    Running (.busXact 0x28 0 2) u ∧ u.seq.bmeState = .rdByte ∧ u.ports.bus.rif = true ∧ u.rbuf.wf ∧
    ¬(u.seq.bidx.toNat + 1 < u.seq.xrlen.toNat) := by decide

theorem witness_ReadAddressSampleCanServeTheFirstByte :
    let s := onBus (.busXact 0x28 0 1) 0 1 .addrR (wrote false)
    let u := onBus (.busXact 0x28 0 1) 0 1 .addrR (got 0xA7)
    (Running (.busXact 0x28 0 1) s ∧ s.seq.bmeState = .addrR ∧ s.ports.bus.arblost = false ∧
      s.ports.bus.buserr = false ∧ s.ports.bus.wif = true ∧ s.ports.bus.rif = false) ∧
    (Running (.busXact 0x28 0 1) u ∧ u.seq.bmeState = .addrR ∧ u.ports.bus.arblost = false ∧
      u.ports.bus.buserr = false ∧ u.ports.bus.rif = true) := by decide

theorem witness_AcknowledgedWriteRunsToSuccess :
    let s := idle (command (encode (.busXact 0x28 1 0)) :: (wrote false :: [wrote false]).map .busSample)
    s.flags.busy = false ∧ s.ports.rst = false ∧ (1 : Byte) ≠ 0 ∧ addressClear (wrote false) = true ∧
    [wrote false].length = (1 : Byte).toNat ∧ (∀ x ∈ [wrote false], acknowledged x = true) ∧
    s.inbox = .hostWrite .reg 8 (encode (.busXact 0x28 1 0)) :: (wrote false :: [wrote false]).map .busSample := by decide

theorem witness_NackAtAByteAbandonsTheTransaction :
    let s := idle (command (encode (.busXact 0x28 2 1)) :: (got 0 :: [wrote false] ++ [wrote true]).map .busSample)
    s.flags.busy = false ∧ s.ports.rst = false ∧ addressClear (got 0) = true ∧
    [wrote false].length < (2 : Byte).toNat ∧ (∀ x ∈ [wrote false], acknowledged x = true) ∧
    (wrote true).wif = true ∧ (wrote true).rxack = true ∧
    s.inbox = .hostWrite .reg 8 (encode (.busXact 0x28 2 1)) ::
      (got 0 :: [wrote false] ++ [wrote true]).map .busSample := by decide

theorem witness_ReadOfNBytesFillsTheBuffer :
    let s := idle (command (encode (.busXact 0x28 0 2)) :: (wrote false :: [got 1, got 2]).map .busSample)
    s.flags.busy = false ∧ s.ports.rst = false ∧ (2 : Byte) ≠ 0 ∧ s.rbuf.wf ∧ addressClear (wrote false) = true ∧
    (wrote false).rif = false ∧ [got 1, got 2].length = (2 : Byte).toNat ∧ (∀ x ∈ [got 1, got 2], x.rif = true) ∧
    s.inbox = .hostWrite .reg 8 (encode (.busXact 0x28 0 2)) :: (wrote false :: [got 1, got 2]).map .busSample := by
  decide

theorem witness_RegWriteIsATwoByteWrite :
    State.reset.flags.busy = false ∧ State.reset.ports.rst = false ∧ State.reset.wbuf.wf := by decide

/-! ### Witnesses: one unit at a time, the Host port -/

theorem witness_ReceiverNeverTouchesTheBus :
    let s := reading .nextEdge 250
    Instr.nextEdge.isReceiver = true ∧ exec .nextEdge s = .next (state s (exec .nextEdge s)) := ⟨rfl, rfl⟩

theorem witness_BusEngineNeverTouchesTheReceiver :
    let s := onBus (.busXact 0x28 3 0) 3 0 .wrByte (wrote false)
    (Instr.busXact 0x28 3 0).isReceiver = false ∧
    exec (.busXact 0x28 3 0) s = .next (state s (exec (.busXact 0x28 3 0) s)) := ⟨rfl, rfl⟩

theorem witness_TransientStateIsWrittenBeforeItIsRead :
    (idle [command 0x40000000]).flags.busy = false ∧ (idle [command 0x40000000]).seq.opr = none := by decide

/-- A block at rest, idle and waiting. -/
theorem atRest_idle (inputs : List Input) : AtRest (idle inputs) := .inl ⟨rfl, rfl⟩
theorem atRest_waiting : AtRest (running .nextEdge .waitTick) := .inr ⟨⟨.nextEdge, rfl, rfl⟩, rfl⟩

/-- Each clause at a boundary: the first index outside each space; each way a write is ignored; a step of each kind. -/
theorem witness_HostAccessElsewhereReachesNothing :
    (outsideSpace .reg 9 = true ∧ outsideSpace .wbuf 256 = true ∧ outsideSpace .rbuf 256 = true ∧
      outsideSpace .ring 32 = true ∧ outsideSpace .ring 31 = false) ∧
    WriteIgnored .reg 7 .reset ∧ WriteIgnored .wbuf 0 (running .nextEdge .waitTick) ∧
    (AtRest (idle [.hostRead .ring 32]) ∧ (idle [.hostRead .ring 32]).inbox = .hostRead .ring 32 :: []) ∧
    AtRest { running .nextEdge .waitTick with inbox := [.hostWrite .wbuf 0 1] } :=
  ⟨by decide, .inr (.inr (.inr (.inl (by decide)))), .inr (.inr (.inr (.inr rfl))), ⟨atRest_idle _, rfl⟩,
    .inr ⟨⟨.nextEdge, rfl, rfl⟩, rfl⟩⟩

/-- A read of a block at rest, idle and busy. -/
theorem witness_StatusShowsEachFlagAtItsBit :
    (AtRest (idle [.hostRead .reg 0]) ∧ (idle [.hostRead .reg 0]).ports.rst = false ∧
      (idle [.hostRead .reg 0]).inbox = .hostRead .reg 0 :: []) ∧ AtRest (running .nextEdge .waitTick) :=
  ⟨⟨atRest_idle _, rfl, rfl⟩, atRest_waiting⟩

/-- The first and last of the read-only views, the last elements of the buffers and the ring, a read of each kind. -/
theorem witness_HostReadsShowTheRegistersAndTheBuffers :
    (9 ≤ 9 ∧ 4 ≤ 4 ∧ 4 ≤ 7 ∧ 7 ≤ 7 ∧ 255 < 256) ∧ (idle [.hostRead .ring 31]).inbox = .hostRead .ring 31 :: [] ∧
    AtRest (idle [.hostRead .ring 31]) ∧ (idle [.hostRead .ring 31]).ports.rst = false :=
  ⟨by decide, rfl, atRest_idle _, rfl⟩

theorem witness_HostWritesReachABufferByteAndThePacket :
    let s := idle [.hostWrite .reg 2 0x1283235F]
    let u := idle [.hostWrite .wbuf 255 0xAB]
    (s.flags.busy = false ∧ s.seq.opr = none ∧ s.ports.rst = false ∧ s.inbox = .hostWrite .reg 2 0x1283235F :: []) ∧
    (u.flags.busy = false ∧ u.wbuf.wf ∧ 255 < 256 ∧ u.seq.opr = none ∧ u.ports.rst = false ∧
      u.inbox = .hostWrite .wbuf 255 0xAB :: []) := by decide

/-- The host gives DECODE its operand and starts it (R24): `CFG = 0x04CC84B4` (R200). -/
theorem test_host_gives_decode_its_operand :
    let s := state .reset (step (idle [.hostWrite .reg 2 0x1283235F, command 0x60000000]))
    s.pkt = 0x1283235F ∧ hostReadValue .reg 3 (state .reset (step s)) = 0x04CC84B4 := by decide

end Sys2Proof.Tests
end

/-!
PROOFS. How an operation comes to its wait and goes on from it (spec/00_scope.md R8, R9): every arm of `exec` as one
`runOperation` over two continuations, what these keep, and that going on always ends in a wait that is not over.
-/
namespace Sys2Proof.Machine

/-! ### Every operation as one `runOperation` -/

/-- The statements of an operation before its first wait; for DECODE, which has none, the whole of it. -/
def begins : Instr → State → State
  | .waitTick => awaitTick
  | .sample => startConversion
  | .nextEdge => awaitTick
  | .fullPeriod => beginPeriod
  | .readPacket => beginPeriod
  | .decode => fun s => finish (decodePacket s)
  | .decodeConfig => beginPeriod
  | .busXact addr wlen rlen => beginTransaction addr wlen rlen
  | .regWrite addr _ _ => beginTransaction addr 2 0

/-- How an operation goes on from the wait it is suspended at, up to a wait that is not over. -/
def resumes : Instr → State → State
  | .waitTick => rxRun finish (fun _ t => t)
  | .sample => rxRun (fun t => t) returnSample
  | .nextEdge => rxRun startConversion nextEdgeReading
  | .fullPeriod => rxRun startConversion fullPeriodReading
  | .readPacket => rxRun startConversion readPacketReading
  | .decode => fun t => t
  | .decodeConfig => rxRun startConversion decodeConfigReading
  | .busXact _ _ _ => busRun fromWbuf
  | .regWrite _ reg val => busRun (fromOperands reg val)

theorem exec_eq_runOperation (i : Instr) (s : State) :
    exec i s = .next (runOperation i (begins i) (resumes i) s) := by
  cases i <;> rfl

theorem exec_of_running {i : Instr} {s : State} (h : Running i s) : exec i s = .next (resumes i s) := by
  rw [exec_eq_runOperation, runOperation_running _ _ h]

/-- What is waited for depends on the unit the operation belongs to. -/
theorem waitOver_of_opr {i : Instr} {s : State} (h : s.seq.opr = some i) :
    waitOver s = if i.isReceiver then rxWaitOver s else busWaitOver s := by
  simp [waitOver, h]

theorem waitOver_of_no_operation {s : State} (h : s.seq.opr = none) : waitOver s = false := by
  simp [waitOver, h]

/-! ### An operation goes on or ends -/

/-- From `s` to `t` the operation in progress has stayed the one it was, or has ended: none has taken its place. -/
def GoesOnOrEnds (s t : State) : Prop := t.seq.opr = s.seq.opr ∨ t.seq.opr = none

theorem GoesOnOrEnds.trans {s t u : State} (h₁ : GoesOnOrEnds s t) (h₂ : GoesOnOrEnds t u) : GoesOnOrEnds s u := by
  rcases h₂ with h₂ | h₂
  · exact h₁.imp h₂.trans h₂.trans
  · exact .inr h₂

/-- Once the unit of operation `i` has nothing to go on from, no wait is over. -/
theorem waitOver_of_goesOnOrEnds {i : Instr} {s t : State} (hs : s.seq.opr = some i ∨ s.seq.opr = none)
    (h : GoesOnOrEnds s t) (hw : (if i.isReceiver then rxWaitOver t else busWaitOver t) = false) :
    waitOver t = false := by
  have ht : t.seq.opr = some i ∨ t.seq.opr = none := by
    rcases h with h | h
    · rwa [h]
    · exact .inr h
  rcases ht with ht | ht
  · rw [waitOver_of_opr ht, hw]
  · exact waitOver_of_no_operation ht

/-! ### The receiver -/

/-- What the receiver may do between two waits: it leaves the ports' signals alone, and the operation goes on or ends. -/
def RxContinuation (f : State → State) : Prop := ∀ s, (f s).ports = s.ports ∧ GoesOnOrEnds s (f s)

theorem rxContinuation_id : RxContinuation (fun s => s) := fun _ => ⟨rfl, .inl rfl⟩
theorem rxContinuation_finish : RxContinuation finish := fun _ => ⟨rfl, .inr rfl⟩
theorem rxContinuation_awaitTick : RxContinuation awaitTick := fun _ => ⟨rfl, .inl rfl⟩
theorem rxContinuation_startConversion : RxContinuation startConversion := fun _ => ⟨rfl, .inl rfl⟩
theorem rxContinuation_beginPeriod : RxContinuation beginPeriod := fun _ => ⟨rfl, .inl rfl⟩
theorem rxContinuation_returnSample (x : Sample) : RxContinuation (returnSample x) := fun _ => ⟨rfl, .inr rfl⟩

theorem periodIteration_frame (x : Sample) (s : State) :
    (periodIteration x s).1.ports = s.ports ∧ (periodIteration x s).1.seq.opr = s.seq.opr := by
  rcases periodIteration_cases x s with ⟨-, h⟩ | ⟨-, -, h⟩ | ⟨-, -, h⟩ <;> rw [h] <;> exact ⟨rfl, rfl⟩

theorem packetIteration_frame (x : Sample) (s : State) :
    (packetIteration x s).1.ports = s.ports ∧ (packetIteration x s).1.seq.opr = s.seq.opr := by
  rcases packetIteration_cases x s with ⟨-, h⟩ | ⟨m, r, -, -, ⟨p, -, h⟩ | ⟨-, h⟩⟩ <;> rw [h] <;>
    exact periodIteration_frame x s

theorem decodePacket_frame (s : State) :
    (decodePacket s).ports = s.ports ∧ (decodePacket s).seq.opr = s.seq.opr := by
  rcases decodePacket_cases s with ⟨c, -, h⟩ | ⟨-, h⟩ <;> rw [h] <;> exact ⟨rfl, rfl⟩

/-- A continuation after an iteration that leaves ports and operation alone is one from where the iteration began. -/
theorem RxContinuation.after {f : State → State} (hf : RxContinuation f) {s t : State}
    (h : t.ports = s.ports ∧ t.seq.opr = s.seq.opr) : (f t).ports = s.ports ∧ GoesOnOrEnds s (f t) :=
  ⟨(hf t).1.trans h.1, .trans (.inl h.2) (hf t).2⟩

theorem rxContinuation_nextEdgeReading (x : Sample) : RxContinuation (nextEdgeReading x) := by
  intro s
  unfold nextEdgeReading
  rw [edgeIteration_eq]
  cases (detect x s.rx).2 with
  | some d => exact ⟨rfl, .inr rfl⟩
  | none => exact ⟨rfl, .inl rfl⟩

theorem rxContinuation_fullPeriodReading (x : Sample) : RxContinuation (fullPeriodReading x) := by
  intro s
  have hp := periodIteration_frame x s
  unfold fullPeriodReading
  split <;> rename_i h <;> rw [h] at hp
  · exact ⟨hp.1, .inr rfl⟩
  · exact rxContinuation_awaitTick.after hp

theorem rxContinuation_readPacketReading (x : Sample) : RxContinuation (readPacketReading x) := by
  intro s
  have hp := packetIteration_frame x s
  unfold readPacketReading
  split <;> rename_i h <;> rw [h] at hp
  · exact rxContinuation_finish.after hp
  · exact rxContinuation_awaitTick.after hp

theorem rxContinuation_decodeConfigReading (x : Sample) : RxContinuation (decodeConfigReading x) := by
  intro s
  have hp := packetIteration_frame x s
  unfold decodeConfigReading
  split <;> rename_i t _ h <;> rw [h] at hp
  · exact rxContinuation_awaitTick.after hp
  · have hd : (decodePacket t).ports = s.ports ∧ (decodePacket t).seq.opr = s.seq.opr :=
      ⟨(decodePacket_frame t).1.trans hp.1, (decodePacket_frame t).2.trans hp.2⟩
    split
    · exact rxContinuation_finish.after hd
    · exact rxContinuation_beginPeriod.after hd

/-- With both of its flags down the receiver has nothing to go on from. -/
theorem rxWaitOver_of_flags_down {s : State} (ht : s.ports.tov = false) (ha : s.ports.adcDone = false) :
    rxWaitOver s = false := by
  cases h : s.seq.rxState <;> simp [rxWaitOver, h, ht, ha]

section
variable {f : State → State} {g : Sample → State → State} (hf : RxContinuation f) (hg : ∀ x, RxContinuation (g x))
include hf hg

theorem rxAdvance_goesOnOrEnds (s : State) : GoesOnOrEnds s (rxAdvance f g s) := by
  rcases rxAdvance_cases f g s with ⟨-, h⟩ | ⟨-, -, h⟩ | ⟨-, -, h⟩ <;> rw [h]
  · exact .inl rfl
  · exact (hf (consumeTick s)).2
  · exact (hg _ (takeReading s)).2

theorem rxRun_goesOnOrEnds (s : State) : GoesOnOrEnds s (rxRun f g s) :=
  (rxAdvance_goesOnOrEnds hf hg s).trans (rxAdvance_goesOnOrEnds hf hg _)

/-- With one of the two flags down, one advance is enough: if it goes on from a wait, it leaves both flags down. -/
theorem rxWaitOver_rxAdvance {s : State} (h : s.ports.tov = false ∨ s.ports.adcDone = false) :
    rxWaitOver (rxAdvance f g s) = false := by
  rcases rxAdvance_cases f g s with ⟨hw, he⟩ | ⟨-, ht, he⟩ | ⟨-, ha, he⟩ <;> rw [he]
  · exact hw
  · have ha : s.ports.adcDone = false := by simpa [ht] using h
    exact rxWaitOver_of_flags_down (by simp [(hf _).1]) (by simp [(hf _).1, ha])
  · have ht : s.ports.tov = false := by simpa [ha] using h
    exact rxWaitOver_of_flags_down (by simp [(hg _ _).1, ht]) (by simp [(hg _ _).1])

/-- Two advances are always enough, since going on from a wait clears the flag it waited for (log entry 5). -/
theorem rxWaitOver_rxRun (s : State) : rxWaitOver (rxRun f g s) = false := by
  rcases rxAdvance_cases f g s with ⟨hw, -⟩ | ⟨hr, ht, -⟩ | ⟨hr, ha, -⟩
  · rwa [rxRun_waiting f g hw]
  · rw [rxRun_tick f g hr ht]
    exact rxWaitOver_rxAdvance hf hg (.inl (by simp [(hf _).1]))
  · rw [rxRun_reading f g hr ha]
    exact rxWaitOver_rxAdvance hf hg (.inr (by simp [(hg _ _).1]))

end

/-! ### The bus engine -/

/-- From `s` the engine has put a command on its port, which clears the flags it waits for next, or has ended. -/
def IssuesOrEnds (s t : State) : Prop :=
  (t.seq.opr = s.seq.opr ∧ t.ports.bus.wif = false ∧ t.ports.bus.rif = false) ∨
  (t.seq.opr = none ∧ t.seq.bmeState = .idle)

theorem IssuesOrEnds.goesOnOrEnds {s t : State} (h : IssuesOrEnds s t) : GoesOnOrEnds s t :=
  h.imp (fun h => h.1) (fun h => h.1)

theorem IssuesOrEnds.busWaitOver {s t : State} (h : IssuesOrEnds s t) : busWaitOver t = false :=
  busWaitOver_of_cleared (h.symm.imp (fun h => h.2) (fun h => h.2))

theorem port_issuesOrEnds {s t : State} (c : BusCmd) (h : t.seq.opr = s.seq.opr) : IssuesOrEnds s (port c t) :=
  .inl ⟨h, by simp, by simp⟩

theorem finishBus_issuesOrEnds (ok : Bool) (s t : State) : IssuesOrEnds s (finishBus ok t) := .inr ⟨rfl, rfl⟩

theorem beginRead_issuesOrEnds {s t : State} (h : t.seq.opr = s.seq.opr) : IssuesOrEnds s (beginRead t) := by
  unfold beginRead
  split
  · exact finishBus_issuesOrEnds _ _ _
  · exact port_issuesOrEnds _ h

theorem beginTransaction_issuesOrEnds (addr : BusAddr) (wlen rlen : Byte) (s : State) :
    IssuesOrEnds s (beginTransaction addr wlen rlen s) := by
  unfold beginTransaction
  dsimp only
  split
  · exact beginRead_issuesOrEnds rfl
  · exact port_issuesOrEnds _ rfl

theorem afterWriteAddress_issuesOrEnds (o : State → Nat → Byte) (s : State) :
    IssuesOrEnds s (afterWriteAddress o s) := by
  unfold afterWriteAddress
  split
  · exact finishBus_issuesOrEnds _ _ _
  · exact port_issuesOrEnds _ rfl

theorem afterWriteByte_issuesOrEnds (o : State → Nat → Byte) (s : State) : IssuesOrEnds s (afterWriteByte o s) := by
  unfold afterWriteByte
  split
  · exact finishBus_issuesOrEnds _ _ _
  · split
    · exact port_issuesOrEnds _ rfl
    · exact beginRead_issuesOrEnds rfl

theorem afterReadByte_issuesOrEnds (s : State) : IssuesOrEnds s (afterReadByte s) := by
  unfold afterReadByte
  dsimp only
  split
  · exact port_issuesOrEnds _ rfl
  · exact finishBus_issuesOrEnds _ _ _

/-- The one way on without a port command: the address sample's `RIF` stays up for the first read wait (R227). -/
theorem afterReadAddress_cases (s : State) :
    IssuesOrEnds s (afterReadAddress s) ∨
    ((afterReadAddress s).seq.opr = s.seq.opr ∧ (afterReadAddress s).seq.bmeState = .rdByte) := by
  unfold afterReadAddress
  split
  · exact .inl (finishBus_issuesOrEnds _ _ _)
  · exact .inr ⟨rfl, rfl⟩

theorem busRun_waiting (o : State → Nat → Byte) {s : State} (h : busWaitOver s = false) : busRun o s = s :=
  busRun_of (busAdvance_waiting o h) h

/-- The engine, run, has nothing to go on from: every way on issues a command or ends, but for the first read wait, and
from that one the second advance does. -/
theorem busRun_settles (o : State → Nat → Byte) (s : State) :
    GoesOnOrEnds s (busRun o s) ∧ busWaitOver (busRun o s) = false := by
  have settled {t : State} (ha : busAdvance o s = t) (ht : IssuesOrEnds s t) :
      GoesOnOrEnds s (busRun o s) ∧ busWaitOver (busRun o s) = false := by
    rw [busRun_of ha ht.busWaitOver]
    exact ⟨ht.goesOnOrEnds, ht.busWaitOver⟩
  rcases busAdvance_cases o s with ⟨hw, -⟩ | ⟨-, -, ha⟩ | ⟨-, -, ha⟩ | ⟨-, -, ha⟩ | ⟨-, -, ha⟩
  · rw [busRun_waiting o hw]
    exact ⟨.inl rfl, hw⟩
  · exact settled ha (afterWriteAddress_issuesOrEnds o s)
  · exact settled ha (afterWriteByte_issuesOrEnds o s)
  · rcases afterReadAddress_cases s with ht | ⟨ho, hb⟩
    · exact settled ha ht
    · rw [busRun, ha]
      rcases busAdvance_cases o (afterReadAddress s) with ⟨hw, h⟩ | ⟨hb', -⟩ | ⟨hb', -⟩ | ⟨hb', -⟩ | ⟨-, -, h⟩
      · rw [h]
        exact ⟨.inl ho, hw⟩
      · simp [hb] at hb'
      · simp [hb] at hb'
      · simp [hb] at hb'
      · have hr := afterReadByte_issuesOrEnds (afterReadAddress s)
        rw [h]
        exact ⟨.trans (.inl ho) hr.goesOnOrEnds, hr.busWaitOver⟩
  · exact settled ha (afterReadByte_issuesOrEnds s)

/-! ### Every operation waits -/

/-- How operations go on: DECODE has no wait, the receiver's others run between two waits, the engine's on its own. -/
theorem resumes_cases (i : Instr) :
    i = .decode ∨
    (i.isReceiver = true ∧ ∃ f g, RxContinuation f ∧ (∀ x, RxContinuation (g x)) ∧ resumes i = rxRun f g) ∨
    (i.isReceiver = false ∧ ∃ o, resumes i = busRun o) := by
  cases i with
  | waitTick => exact .inr (.inl ⟨rfl, _, _, rxContinuation_finish, fun _ => rxContinuation_id, rfl⟩)
  | sample => exact .inr (.inl ⟨rfl, _, _, rxContinuation_id, rxContinuation_returnSample, rfl⟩)
  | nextEdge => exact .inr (.inl ⟨rfl, _, _, rxContinuation_startConversion, rxContinuation_nextEdgeReading, rfl⟩)
  | fullPeriod => exact .inr (.inl ⟨rfl, _, _, rxContinuation_startConversion, rxContinuation_fullPeriodReading, rfl⟩)
  | readPacket => exact .inr (.inl ⟨rfl, _, _, rxContinuation_startConversion, rxContinuation_readPacketReading, rfl⟩)
  | decode => exact .inl rfl
  | decodeConfig =>
    exact .inr (.inl ⟨rfl, _, _, rxContinuation_startConversion, rxContinuation_decodeConfigReading, rfl⟩)
  | busXact addr wlen rlen => exact .inr (.inr ⟨rfl, _, rfl⟩)
  | regWrite addr reg val => exact .inr (.inr ⟨rfl, _, rfl⟩)

theorem begins_goesOnOrEnds (i : Instr) (s : State) : GoesOnOrEnds s (begins i s) := by
  cases i with
  | decode => exact .inr rfl
  | busXact addr wlen rlen => exact (beginTransaction_issuesOrEnds addr wlen rlen s).goesOnOrEnds
  | regWrite addr reg val => exact (beginTransaction_issuesOrEnds addr 2 0 s).goesOnOrEnds
  | _ => exact .inl rfl

/-- An operation whose wait is not over stays where it is. -/
theorem resumes_waiting {i : Instr} {s : State} (ho : s.seq.opr = some i) (h : waitOver s = false) :
    resumes i s = s := by
  rw [waitOver_of_opr ho] at h
  rcases resumes_cases i with rfl | ⟨hi, f, g, -, -, hr⟩ | ⟨hi, o, hr⟩
  · rfl
  · rw [hr, rxRun_waiting f g (by simpa [hi] using h)]
  · rw [hr, busRun_waiting o (by simpa [hi] using h)]

/-- An operation that has gone on waits for a flag that is not up, or has ended. -/
theorem waitOver_resumes {i : Instr} {s : State} (hi : i ≠ .decode) (hs : s.seq.opr = some i ∨ s.seq.opr = none) :
    waitOver (resumes i s) = false := by
  rcases resumes_cases i with rfl | ⟨hi, f, g, hf, hg, hr⟩ | ⟨hi, o, hr⟩
  · exact absurd rfl hi
  · rw [hr]
    exact waitOver_of_goesOnOrEnds hs (rxRun_goesOnOrEnds hf hg s) (by simp [hi, rxWaitOver_rxRun hf hg s])
  · obtain ⟨hgo, hw⟩ := busRun_settles o s
    rw [hr]
    exact waitOver_of_goesOnOrEnds hs hgo (by simp [hi, hw])

/-- Settles O8: `exec` of the operation in progress is `resumes`, and both units stay put at a wait that is not over. -/
theorem awaitTakesNoStepBeforeItsCondition : Obligations.AwaitTakesNoStepBeforeItsCondition := by
  unfold Obligations.AwaitTakesNoStepBeforeItsCondition
  intro i s hr hw
  rw [exec_of_running hr, resumes_waiting hr.2 hw]

/-! ### The step -/

/-- What the invariant says of `BUSY` and `OPR`: they agree, and DECODE is never found in progress. -/
theorem sequencingOk_cases {s : State} (h : sequencingOk s = true) :
    (s.flags.busy = false ∧ s.seq.opr = none) ∨ (∃ i, Running i s ∧ i ≠ .decode) := by
  unfold sequencingOk at h
  cases ho : s.seq.opr with
  | none =>
    simp only [ho, Bool.and_eq_true, Bool.not_eq_true'] at h
    obtain ⟨⟨hb, -⟩, -⟩ := h
    exact .inl ⟨hb, rfl⟩
  | some i =>
    simp only [ho, Bool.and_eq_true] at h
    obtain ⟨⟨⟨⟨hb, -⟩, -⟩, hs⟩, -⟩ := h
    refine .inr ⟨i, ⟨hb, ho⟩, ?_⟩
    rintro rfl
    simp [suspendedOk] at hs

/-- An input starts and ends nothing. -/
theorem takeInput_busy_opr (s : State) :
    (takeInput s).1.flags.busy = s.flags.busy ∧ (takeInput s).1.seq.opr = s.seq.opr := by
  rcases takeInput_cases s with ⟨p, l, tr, h⟩ | ⟨-, v, l, h⟩ | ⟨-, ix, v, l, -, h⟩ | ⟨-, w, l, -, h⟩ <;> rw [h] <;>
    exact ⟨rfl, rfl⟩

/-- A command run on an idle block waits, has ended, or is refused. -/
theorem waitOver_exec_of_idle {i : Instr} {s t : State} (hb : s.flags.busy = false) (ho : s.seq.opr = none)
    (h : exec i s = .next t) : waitOver t = false := by
  rw [exec_eq_runOperation, Host.Outcome.next.injEq] at h
  subst h
  cases hw : i.wellFormed with
  | false =>
    rw [runOperation_refuse _ _ hb hw]
    exact waitOver_of_no_operation ho
  | true =>
    rw [runOperation_idle _ _ hb hw]
    by_cases hi : i = .decode
    · subst hi
      exact waitOver_of_no_operation rfl
    · exact waitOver_resumes hi (begins_goesOnOrEnds i (accept i s))

theorem waitOver_exec_of_running {i : Instr} {s t : State} (hr : Running i s) (hi : i ≠ .decode)
    (h : exec i s = .next t) : waitOver t = false := by
  rw [exec_of_running hr, Host.Outcome.next.injEq] at h
  subst h
  exact waitOver_resumes hi (.inl hr.2)

/-- Settles O15, along what a step can do (`step_cases`): the operation run comes to wait, and every other outcome leaves
a block with none in progress. -/
theorem afterAStepTheBlockWaits : Obligations.AfterAStepTheBlockWaits := by
  unfold Obligations.AfterAStepTheBlockWaits
  intro s t ⟨_, _, _, hseq⟩ hstep
  obtain ⟨hbusy, hopr⟩ := takeInput_busy_opr s
  have idle_of_command {w : Word} (hc : (takeInput s).2 = some w) : s.flags.busy = false ∧ s.seq.opr = none := by
    rcases sequencingOk_cases hseq with hidle | ⟨i, hr, -⟩
    · exact hidle
    · simp [(takeInput_busy hr.1).1] at hc
  rcases step_cases hstep with ⟨-, rfl⟩ | ⟨-, ⟨i, he, ⟨w, hc, -⟩ | ⟨-, ho⟩⟩ | ⟨rfl, w, -, hc, -⟩ | ⟨rfl, -, ho⟩⟩
  · exact waitOver_of_no_operation rfl
  · obtain ⟨hb, ho⟩ := idle_of_command hc
    exact waitOver_exec_of_idle (hbusy.trans hb) (hopr.trans ho) he
  · rcases sequencingOk_cases hseq with ⟨-, hn⟩ | ⟨j, ⟨hb, hj⟩, hd⟩
    · rw [hopr, hn] at ho
      cases ho
    · rw [hopr, hj, Option.some.injEq] at ho
      subst ho
      exact waitOver_exec_of_running ⟨hbusy.trans hb, hopr.trans hj⟩ hd he
  · exact waitOver_of_no_operation (hopr.trans (idle_of_command hc).2)
  · exact waitOver_of_no_operation ho

end Sys2Proof.Machine

/-!
PROOFS. One input, one step: what a step of a busy block, of a block in reset and of a block at rest does, and what
each host read shows (spec/10_state.md R21 to R30, R67; spec/20_memory.md R70, R72, R81).
-/
namespace Sys2Proof.Machine

/-! ### One input, one step -/

theorem takeInput_nil {s : State} (h : s.inbox = []) : takeInput s = (s, none) := by
  simp [takeInput, h]

theorem takeInput_cons {s : State} {e : Input} {rest : List Input} (h : s.inbox = e :: rest) :
    takeInput s = applyInput e { s with inbox := rest } := by
  simp [takeInput, h]

/-- Not held in reset, a step after an input that presents no command is that of the operation in progress. -/
theorem step_of_running {i : Instr} {s t : State} (hi : takeInput s = (t, none)) (hrst : t.ports.rst = false)
    (ho : t.seq.opr = some i) : step s = exec i t := by
  simp [step, hi, hrst, ho]

theorem step_of_idle {s t : State} (hi : takeInput s = (t, none)) (hrst : t.ports.rst = false)
    (ho : t.seq.opr = none) : step s = .next t := by
  simp [step, hi, hrst, ho]

theorem step_of_reset {s : State} (h : (takeInput s).1.ports.rst = true) :
    step s = .next (blockReset (takeInput s).1) := by
  simp [step, h]

/-! ### A busy block and a reset -/

/-- Settles O5: no input starts, ends or commands anything on a busy block (`takeInput_busy`). -/
theorem stepResumesTheRunningOperation : Obligations.StepResumesTheRunningOperation := by
  unfold Obligations.StepResumesTheRunningOperation
  intro s i ⟨hbusy, hopr⟩ hrst
  obtain ⟨hb, ho⟩ := takeInput_busy_opr s
  have hcmd : takeInput s = ((takeInput s).1, none) := by rw [← (takeInput_busy hbusy).1]
  refine ⟨step_of_running hcmd hrst (ho.trans hopr), ⟨hb.trans hbusy, ho.trans hopr⟩, fun sp ix v rest hin => ?_⟩
  simp [takeInput_cons hin, applyInput, hostWrite, hbusy]

@[simp] theorem ringGet_reset (k : BitVec 5) : ringGet Receiver.reset.ring k = 0 := by
  simp [ringGet, Receiver.reset, Vector.get]

theorem cfgRecord_reset_word : CfgRecord.reset.word = 0 := by decide

/-- Settles O11: the reset input leads to `blockReset`, whose fields are the values of R67's table. -/
theorem assertedResetGivesTheResetValues : Obligations.AssertedResetGivesTheResetValues := by
  unfold Obligations.AssertedResetGivesTheResetValues
  intro s rest hin
  have hinput : takeInput s = ({ s with inbox := rest, ports.rst := true }, none) := takeInput_cons hin
  refine ⟨blockReset (takeInput s).1, step_of_reset (by rw [hinput]), ?_⟩
  rw [hinput]
  exact ⟨rfl, rfl, rfl, rfl, rfl, rfl, rfl, rfl, rfl, ringGet_reset, rfl, rfl, rfl, cfgRecord_reset_word, rfl,
    fun _ => ⟨rfl, rfl⟩, rfl, rfl, rfl, rfl, rfl, rfl, rfl, rfl, rfl⟩

/-! ### Host reads -/

/-- A host read shows its value and does nothing else, at any time (R72, R81). -/
theorem takeInput_hostRead {s : State} {sp : Space} {index : Nat} {rest : List Input}
    (h : s.inbox = .hostRead sp index :: rest) :
    takeInput s = ({ s with inbox := rest, trace := s.trace ++ [.hostData (hostReadValue sp index s)] }, none) := by
  rw [takeInput_cons h]
  simp [applyInput, emit]

/-- A block at rest does nothing on account of an input that reaches none of its state and none of its waits. -/
theorem step_of_atRest {s : State} {l : List Input} {tr : List PortOut} (hrest : AtRest s) (hrst : s.ports.rst = false)
    (hi : takeInput s = ({ s with inbox := l, trace := tr }, none)) :
    step s = .next { s with inbox := l, trace := tr } := by
  rcases hrest with ⟨-, ho⟩ | ⟨⟨i, hb, ho⟩, hw⟩
  · exact step_of_idle hi hrst ho
  · rw [step_of_running hi hrst ho]
    exact awaitTakesNoStepBeforeItsCondition i _ ⟨hb, ho⟩ hw

theorem step_hostRead_of_atRest {s : State} {sp : Space} {index : Nat} {rest : List Input} (hrest : AtRest s)
    (hrst : s.ports.rst = false) (h : s.inbox = .hostRead sp index :: rest) :
    step s = .next { s with inbox := rest, trace := s.trace ++ [.hostData (hostReadValue sp index s)] } :=
  step_of_atRest hrest hrst (takeInput_hostRead h)

/-- The bits of `STATUS` (R22). -/
theorem getLsbD_statusWord (s : State) :
    (statusWord s).getLsbD 0 = s.flags.busy ∧ (statusWord s).getLsbD 1 = s.flags.busOk ∧
    (statusWord s).getLsbD 2 = s.flags.cmdErr ∧ (statusWord s).getLsbD 3 = s.rx.level ∧
    (statusWord s).getLsbD 4 = detEn s.rx ∧ (statusWord s).getLsbD 5 = s.flags.cfgValid ∧
    ∀ k, (statusWord s).getLsbD (k + 6) = false := by
  unfold statusWord
  simp only [BitVec.getLsbD_append]
  simp

/-- Settles O59: the bits of `STATUS`, and a read of a block at rest. -/
theorem statusShowsEachFlagAtItsBit : Obligations.StatusShowsEachFlagAtItsBit := by
  unfold Obligations.StatusShowsEachFlagAtItsBit
  intro s
  obtain ⟨hbusy, hok, herr, hlevel, hdet, hvalid, hzero⟩ := getLsbD_statusWord s
  refine ⟨hbusy, hok, herr, hlevel, hdet, hvalid, fun k hk => ?_, fun rest hrest hrst hin => ?_⟩
  · obtain ⟨j, rfl⟩ := Nat.exists_eq_add_of_le' hk
    exact hzero j
  · exact step_hostRead_of_atRest hrest hrst hin

theorem cfgRecord_word_toNat (c : CfgRecord) : c.word.toNat = c.v1.toNat + 2 ^ 9 * c.i1.toNat + 2 ^ 13 * c.v2.toNat +
    2 ^ 22 * c.i2.toNat + 2 ^ 26 * c.reqPd.toNat := by
  unfold CfgRecord.word
  simp only [append_toNat, BitVec.toNat_ofBool, BitVec.ofNat_eq_ofNat, BitVec.toNat_zero]
  omega

theorem tickView_toNat (r : Receiver) : (tickView r).toNat = r.tick.toNat := by
  unfold tickView
  simp only [append_toNat, BitVec.ofNat_eq_ofNat, BitVec.toNat_zero]
  omega

theorem thrView_toNat (r : Receiver) :
    (thrView r).toNat = r.thrLow.toNat + 2 ^ 10 * r.thrHigh.toNat + 2 ^ 20 * r.calP2p.toNat := by
  unfold thrView
  simp only [append_toNat, BitVec.ofNat_eq_ofNat, BitVec.toNat_zero]
  omega

theorem calView_toNat (r : Receiver) :
    (calView r).toNat = r.calMin.toNat + 2 ^ 10 * r.calMax.toNat + 2 ^ 20 * r.calPos.toNat := by
  unfold calView
  simp only [append_toNat, BitVec.ofNat_eq_ofNat, BitVec.toNat_zero]
  omega

theorem frmView_toNat (r : Receiver) : (frmView r).toNat = r.cur.toNat + 2 ^ 16 * r.lastFlip.toNat := by
  unfold frmView
  simp only [append_toNat, BitVec.ofNat_eq_ofNat, BitVec.toNat_zero]
  omega

theorem hostReadValue_res (s : State) : hostReadValue .reg 1 s = s.res.setWidth 32 := by
  refine BitVec.eq_of_toNat_eq ?_
  unfold hostReadValue readRegister
  simp only [append_toNat, BitVec.ofNat_eq_ofNat, BitVec.toNat_zero, BitVec.toNat_setWidth]
  omega

theorem hostReadValue_reg_of_le {n : Nat} (s : State) (h : 9 ≤ n) : hostReadValue .reg n s = 0 := by
  obtain ⟨k, rfl⟩ := Nat.exists_eq_add_of_le' h
  rfl

/-- The views are read only (R26 to R29). -/
theorem hostWrite_view {n : Nat} (v : Word) (s : State) (h4 : 4 ≤ n) (h7 : n ≤ 7) :
    hostWrite .reg n v s = (s, none) := by
  unfold hostWrite
  simp [show n ≠ 2 by omega, show n ≠ 8 by omega]

theorem hostReadValue_wbuf_toNat {k : Nat} (s : State) (h : k < 256) :
    (hostReadValue .wbuf k s).toNat = (s.wbuf.read k).toNat := by
  have := (s.wbuf.read k).isLt
  simp [hostReadValue, h]; omega

theorem hostReadValue_rbuf_toNat {k : Nat} (s : State) (h : k < 256) :
    (hostReadValue .rbuf k s).toNat = (s.rbuf.read k).toNat := by
  have := (s.rbuf.read k).isLt
  simp [hostReadValue, h]; omega

theorem hostReadValue_ring_toNat (k : BitVec 5) (s : State) :
    (hostReadValue .ring k.toNat s).toNat = (ringGet s.rx.ring k).toNat := by
  have := (ringGet s.rx.ring k).isLt
  simp [hostReadValue, k.isLt]; omega

/-- Settles O60, one element at a time; a read of a block at rest does nothing more. -/
theorem hostReadsShowTheRegistersAndTheBuffers : Obligations.HostReadsShowTheRegistersAndTheBuffers := by
  unfold Obligations.HostReadsShowTheRegistersAndTheBuffers
  intro s
  exact ⟨hostReadValue_res s, rfl, rfl, cfgRecord_word_toNat s.cfg, tickView_toNat s.rx, thrView_toNat s.rx,
    calView_toNat s.rx, frmView_toNat s.rx, fun n => hostReadValue_reg_of_le s, fun n v => hostWrite_view v s,
    fun k hk => ⟨hostReadValue_wbuf_toNat s hk, hostReadValue_rbuf_toNat s hk⟩,
    fun k => hostReadValue_ring_toNat k s,
    fun sp index rest hin => ⟨takeInput_hostRead hin, fun hrest hrst => step_hostRead_of_atRest hrest hrst hin⟩⟩

end Sys2Proof.Machine

/-!
PROOFS. The invariant of every run. Between operations, or suspended at a wait of the one `CMD` holds (`inv_iff`); from
there each unit's statements lead to the operation's next wait or to its end (`Settled`).
-/
namespace Sys2Proof.Machine

/-! ### The data a run keeps: the calibration window and the configuration record -/

/-- Folding a sample in and counting it keeps the window's shape; at the window's end the thresholds, 30 and 70 percent
of the way up, are in order, and apart when the peak-to-peak is above 100 (R155). -/
theorem windowOk_countSample {r : Receiver} (x : Sample) (h : WindowOk r) :
    WindowOk (countSample (foldSample x r)) := by
  obtain ⟨hpos, hempty, hfull, hthr, hdet⟩ := h
  have hc := sampleCounted_countSample x r
  generalize countSample (foldSample x r) = q at hc ⊢
  unfold SampleCounted at hc
  dsimp only at hc
  unfold WindowOk detEn at *
  simp only [decide_eq_true_eq, BitVec.le_def, BitVec.lt_def] at *
  split at hc
  · obtain ⟨hp2p, hlow, hhigh, hmin, hmax, hzero⟩ := hc
    refine ⟨by simp [hzero], fun _ => ⟨hmin, hmax⟩, fun hne => absurd hzero hne, by omega, by omega⟩
  · obtain ⟨hnext, hmin, hmax, hp2p, hlow, hhigh⟩ := hc
    have hcount : q.calPos.toNat = r.calPos.toNat + 1 := by rw [hnext]; bv_omega
    rw [hp2p, hlow, hhigh]
    exact ⟨by omega, fun hz => by simp [hz] at hcount, fun _ => by omega, hthr, hdet⟩

/-- `detect` keeps the window's shape: its flip moves the level and the time of the flip only. -/
theorem windowOk_detect {r : Receiver} (x : Sample) (h : WindowOk r) : WindowOk (detect x r).1 := by
  rcases detect_cases x r with ⟨-, he⟩ | ⟨-, he⟩ <;> rw [he]
  · exact windowOk_countSample x h
  · exact windowOk_countSample x h

/-- A voltage that is found is one of the table's. -/
theorem voltage_mem {k : BitVec 3} {v : BitVec 9} (h : voltage k = some v) : params.vtable.contains v = true := by
  simpa using List.mem_of_getElem? h

/-- What DECODE accepts is a legal record (R200, R25). -/
theorem recordOf_legal {p : Word} {c : CfgRecord} (h : recordOf p = some c) : c.legal = true := by
  unfold recordOf at h
  split at h
  case h_1 v1 v2 h1 h2 =>
    split at h
    · rename_i hv
      obtain ⟨-, hi1, hi2⟩ := hv
      cases h
      simp only [CfgRecord.legal, voltage_mem h1, voltage_mem h2, hi1, hi2, Bool.and_self]
    · cases h
  case h_2 => cases h

theorem cfgOk_decodePacket {s : State} (h : CfgOk s) : CfgOk (decodePacket s) := by
  rcases decodePacket_cases s with ⟨c, hc, he⟩ | ⟨-, he⟩ <;> rw [he]
  · exact ⟨.inr (recordOf_legal hc), fun _ => recordOf_legal hc⟩
  · exact ⟨h.1, fun hv => by cases hv⟩

/-! ### The invariant in two cases: between operations, and suspended in one -/

/-- The part of the invariant that is about data: the buffers, the calibration window, the record. -/
def DataOk (s : State) : Prop := BuffersOk s ∧ WindowOk s.rx ∧ CfgOk s

theorem DataOk.window {s : State} (h : DataOk s) : WindowOk s.rx := by
  obtain ⟨-, hwin, -⟩ := h
  exact hwin

/-- Operation `i` is the accepted one: in progress, with no refusal after it, well-formed, and held by `CMD`. -/
def Commanded (i : Instr) (s : State) : Prop :=
  Running i s ∧ s.flags.cmdErr = false ∧ i.wellFormed = true ∧ decode s.cmd = .ok i

/-- The invariant between operations. -/
structure Ended (s : State) : Prop where
  data : DataOk s
  busy : s.flags.busy = false
  opr : s.seq.opr = none
  rxState : s.seq.rxState = .idle
  bmeState : s.seq.bmeState = .idle

/-- The invariant while operation `i` is suspended at one of its waits. -/
structure Suspended (i : Instr) (s : State) : Prop where
  data : DataOk s
  commanded : Commanded i s
  atWait : suspendedOk i s.seq = true

theorem sequencingOk_of_none {s : State} (h : s.seq.opr = none) :
    sequencingOk s = true ↔ s.flags.busy = false ∧ s.seq.rxState = .idle ∧ s.seq.bmeState = .idle := by
  simp [sequencingOk, h, and_assoc]

theorem sequencingOk_of_some {s : State} {i : Instr} (h : s.seq.opr = some i) :
    sequencingOk s = true ↔ Commanded i s ∧ suspendedOk i s.seq = true := by
  unfold sequencingOk
  constructor
  · intro hs
    simp only [h, Bool.and_eq_true, Bool.not_eq_true'] at hs
    obtain ⟨⟨⟨⟨hb, he⟩, hw⟩, ha⟩, hd⟩ := hs
    refine ⟨⟨⟨hb, h⟩, he, hw, ?_⟩, ha⟩
    cases hc : decode s.cmd with
    | ok j => simpa [hc] using hd
    | error e => simp [hc] at hd
  · rintro ⟨⟨⟨hb, -⟩, he, hw, hd⟩, ha⟩
    simp [h, hb, he, hw, hd, ha]

theorem inv_iff (s : State) : Inv s ↔ Ended s ∨ ∃ i, Suspended i s := by
  constructor
  · rintro ⟨hbuf, hwin, hcfg, hseq⟩
    cases ho : s.seq.opr with
    | none =>
      obtain ⟨hb, hr, he⟩ := (sequencingOk_of_none ho).mp hseq
      exact .inl ⟨⟨hbuf, hwin, hcfg⟩, hb, ho, hr, he⟩
    | some i =>
      obtain ⟨hc, ha⟩ := (sequencingOk_of_some ho).mp hseq
      exact .inr ⟨i, ⟨hbuf, hwin, hcfg⟩, hc, ha⟩
  · rintro (⟨⟨hbuf, hwin, hcfg⟩, hb, ho, hr, he⟩ | ⟨i, ⟨hbuf, hwin, hcfg⟩, hc, ha⟩)
    · exact ⟨hbuf, hwin, hcfg, (sequencingOk_of_none ho).mpr ⟨hb, hr, he⟩⟩
    · have ⟨⟨_, ho⟩, _⟩ := hc
      exact ⟨hbuf, hwin, hcfg, (sequencingOk_of_some ho).mpr ⟨hc, ha⟩⟩

/-- Operation `i` has come to a wait of its own, or has ended. -/
def Settled (i : Instr) (s : State) : Prop := Suspended i s ∨ Ended s

theorem Settled.inv {i : Instr} {s : State} (h : Settled i s) : Inv s :=
  (inv_iff s).mpr (h.symm.imp_right fun h => ⟨i, h⟩)

/-- An operation's return ends it, whatever it has done so far. -/
theorem settled_finish (i : Instr) {s : State} (h : DataOk s) : Settled i (finish s) :=
  .inr ⟨h, rfl, rfl, rfl, rfl⟩

theorem settled_finishBus (i : Instr) (ok : Bool) {s : State} (h : DataOk s) : Settled i (finishBus ok s) :=
  .inr ⟨h, rfl, rfl, rfl, rfl⟩

/-! ### The receiver between two waits -/

/-- Receiver operation `i` between two of its waits: the invariant's data, the accepted command, the engine idle. -/
structure RxBetween (i : Instr) (s : State) : Prop where
  data : DataOk s
  commanded : Commanded i s
  bmeState : s.seq.bmeState = .idle

/-- Between two waits the receiver's part of the state may move as far as its window keeps its shape. -/
theorem RxBetween.withRx {i : Instr} {s : State} (h : RxBetween i s) {r : Receiver} (hr : WindowOk r) :
    RxBetween i { s with rx := r } := by
  obtain ⟨⟨hbuf, -, hcfg⟩, hc, hb⟩ := h
  exact ⟨⟨hbuf, hr, hcfg⟩, hc, hb⟩

/-- The operations that loop over ticks and readings (R144) can be suspended at either of the receiver's waits. -/
def LoopsOverTicks (i : Instr) : Prop := ∀ q, suspendedOk i q = (q.rxState != .idle && q.bmeState == .idle)

theorem RxBetween.awaitTick {i : Instr} (hi : LoopsOverTicks i) {s : State} (h : RxBetween i s) :
    Settled i (awaitTick s) :=
  .inl ⟨h.data, h.commanded, by simp [hi _, h.bmeState]⟩

theorem RxBetween.beginPeriod {i : Instr} (hi : LoopsOverTicks i) {s : State} (h : RxBetween i s) :
    Settled i (beginPeriod s) :=
  .inl ⟨h.data, h.commanded, by simp [hi _, h.bmeState]⟩

theorem RxBetween.startConversion {i : Instr} (hi : LoopsOverTicks i) {s : State} (h : RxBetween i s) :
    Settled i (startConversion s) :=
  .inl ⟨h.data, h.commanded, by simp [hi _, h.bmeState]⟩

theorem RxBetween.edgeIteration {i : Instr} (x : Sample) {s : State} (h : RxBetween i s) :
    RxBetween i (edgeIteration x s).1 :=
  h.withRx (windowOk_detect x h.data.window)

theorem RxBetween.periodIteration {i : Instr} (x : Sample) {s : State} (h : RxBetween i s) :
    RxBetween i (periodIteration x s).1 := by
  have hcount := windowOk_countSample x h.data.window
  rcases periodIteration_cases x s with ⟨-, he⟩ | ⟨-, -, he⟩ | ⟨-, -, he⟩ <;> rw [he]
  · exact h.withRx hcount
  · have hflip := h.withRx (r := commitFlip _) hcount
    exact ⟨hflip.data, hflip.commanded, hflip.bmeState⟩
  · exact h.withRx hcount

theorem RxBetween.packetIteration {i : Instr} (x : Sample) {s : State} (h : RxBetween i s) :
    RxBetween i (packetIteration x s).1 := by
  have hp := h.periodIteration x
  rcases packetIteration_cases x s with ⟨-, he⟩ | ⟨m, r, -, rfl, hcand⟩
  · rwa [he]
  · have hpush := hp.withRx (r := pushPeriod m _) hp.data.window
    rcases hcand with ⟨p, -, he⟩ | ⟨-, he⟩ <;> rw [he] <;> exact ⟨hpush.data, hpush.commanded, hpush.bmeState⟩

theorem RxBetween.decodePacket {i : Instr} {s : State} (h : RxBetween i s) : RxBetween i (decodePacket s) := by
  obtain ⟨⟨hbuf, hwin, hcfg⟩, hc, hb⟩ := h
  have hcfg' := cfgOk_decodePacket hcfg
  rcases decodePacket_cases s with ⟨c, -, he⟩ | ⟨-, he⟩ <;> rw [he] at hcfg' ⊢ <;> exact ⟨⟨hbuf, hwin, hcfg'⟩, hc, hb⟩

theorem settled_returnSample (x : Sample) {s : State} (h : RxBetween .sample s) : Settled .sample (returnSample x s) :=
  settled_finish _ h.data

theorem settled_nextEdgeReading (x : Sample) {s : State} (h : RxBetween .nextEdge s) :
    Settled .nextEdge (nextEdgeReading x s) := by
  have ht := h.edgeIteration x
  unfold nextEdgeReading
  split <;> rename_i he <;> rw [he] at ht
  · exact settled_finish _ ht.data
  · exact ht.awaitTick fun _ => rfl

theorem settled_fullPeriodReading (x : Sample) {s : State} (h : RxBetween .fullPeriod s) :
    Settled .fullPeriod (fullPeriodReading x s) := by
  have ht := h.periodIteration x
  unfold fullPeriodReading
  split <;> rename_i he <;> rw [he] at ht
  · exact settled_finish _ ht.data
  · exact ht.awaitTick fun _ => rfl

theorem settled_readPacketReading (x : Sample) {s : State} (h : RxBetween .readPacket s) :
    Settled .readPacket (readPacketReading x s) := by
  have ht := h.packetIteration x
  unfold readPacketReading
  split <;> rename_i he <;> rw [he] at ht
  · exact settled_finish _ ht.data
  · exact ht.awaitTick fun _ => rfl

theorem settled_decodeConfigReading (x : Sample) {s : State} (h : RxBetween .decodeConfig s) :
    Settled .decodeConfig (decodeConfigReading x s) := by
  have ht := h.packetIteration x
  unfold decodeConfigReading
  split <;> rename_i he <;> rw [he] at ht
  · exact ht.awaitTick fun _ => rfl
  · split
    · exact settled_finish _ ht.decodePacket.data
    · exact ht.decodePacket.beginPeriod fun _ => rfl

/-- While a receiver operation is suspended the engine is idle. -/
theorem bmeState_of_suspendedOk {i : Instr} {q : Sequencing} (hi : i.isReceiver = true)
    (h : suspendedOk i q = true) : q.bmeState = .idle := by
  cases i with
  | decode => cases h
  | busXact addr wlen rlen => cases hi
  | regWrite addr reg val => cases hi
  | _ => exact eq_of_beq (Bool.and_eq_true_iff.mp h).2

section
variable {i : Instr} {f : State → State} {g : Sample → State → State}
  (hi : i.isReceiver = true)
  (hf : i ≠ .sample → ∀ s, RxBetween i s → Settled i (f s))
  (hg : i ≠ .waitTick → ∀ x s, RxBetween i s → Settled i (g x s))
include hi hf hg

/-- Going on from a wait of a receiver operation leads to the next one or to the end. SAMPLE never waits for a tick and
WAIT_TICK never for a reading, so their continuations there do not matter. -/
theorem settled_rxAdvance {s : State} (h : Settled i s) : Settled i (rxAdvance f g s) := by
  rcases h with ⟨hd, hc, ha⟩ | hend
  · have hb := bmeState_of_suspendedOk hi ha
    rcases rxAdvance_cases f g s with ⟨-, he⟩ | ⟨hr, -, he⟩ | ⟨hr, -, he⟩ <;> rw [he]
    · exact .inl ⟨hd, hc, ha⟩
    · refine hf ?_ _ ⟨hd, hc, hb⟩
      rintro rfl
      simp [suspendedOk, hr] at ha
    · refine hg ?_ _ _ ⟨hd, hc, hb⟩
      rintro rfl
      simp [suspendedOk, hr] at ha
  · rw [rxAdvance_waiting f g (by simp [rxWaitOver, hend.rxState])]
    exact .inr hend

theorem settled_rxRun {s : State} (h : Settled i s) : Settled i (rxRun f g s) :=
  settled_rxAdvance hi hf hg (settled_rxAdvance hi hf hg h)

end

/-! ### The bus engine between two waits -/

/-- The operations of the bus engine: where one can be suspended is a matter of the transaction's three operands. -/
def Transacts (i : Instr) (addr : BusAddr) (wlen rlen : Byte) : Prop :=
  ∀ q, suspendedOk i q = (q.rxState == .idle && transactionOk addr wlen rlen q)

theorem transacts_busXact (addr : BusAddr) (wlen rlen : Byte) :
    Transacts (.busXact addr wlen rlen) addr wlen rlen := fun _ => rfl

theorem transacts_regWrite (addr : BusAddr) (reg val : Byte) : Transacts (.regWrite addr reg val) addr 2 0 :=
  fun _ => rfl

/-- Bus operation `i` between two of its waits: the invariant's data, the accepted command, the receiver idle, the
operands latched. -/
structure BusBetween (i : Instr) (addr : BusAddr) (wlen rlen : Byte) (s : State) : Prop where
  data : DataOk s
  commanded : Commanded i s
  rxState : s.seq.rxState = .idle
  xaddr : s.seq.xaddr = addr
  xwlen : s.seq.xwlen = wlen
  xrlen : s.seq.xrlen = rlen

/-- What `transactionOk` asks at each state of the engine beside the latched operands. -/
theorem suspendedOk_iff {i : Instr} {addr : BusAddr} {wlen rlen : Byte} (hi : Transacts i addr wlen rlen)
    (q : Sequencing) : suspendedOk i q = true ↔
      q.rxState = .idle ∧ q.xaddr = addr ∧ q.xwlen = wlen ∧ q.xrlen = rlen ∧
      ((q.bmeState = .addrW ∧ wlen ≠ 0) ∨ (q.bmeState = .wrByte ∧ q.bidx < wlen) ∨
        (q.bmeState = .addrR ∧ rlen ≠ 0 ∧ q.xok = true) ∨ (q.bmeState = .rdByte ∧ q.bidx < rlen ∧ q.xok = true)) := by
  rw [hi q]
  cases hb : q.bmeState <;> simp [transactionOk, hb, and_assoc]

section
variable {i : Instr} {addr : BusAddr} {wlen rlen : Byte} (hi : Transacts i addr wlen rlen)

theorem settled_stopPhase (i : Instr) {s : State} (h : DataOk s) : Settled i (stopPhase s) :=
  settled_finishBus _ _ h

include hi

theorem BusBetween.beginRead {s : State} (h : BusBetween i addr wlen rlen s) : Settled i (beginRead s) := by
  unfold Machine.beginRead
  split
  · exact settled_stopPhase i h.data
  · rename_i hr
    refine .inl ⟨h.data, h.commanded, (suspendedOk_iff hi _).mpr ?_⟩
    exact ⟨h.rxState, h.xaddr, h.xwlen, h.xrlen, .inr (.inr (.inl ⟨rfl, h.xrlen ▸ hr, rfl⟩))⟩

theorem BusBetween.sendByte (o : State → Nat → Byte) {k : Byte} (hk : k < wlen) {s : State}
    (h : BusBetween i addr wlen rlen s) : Settled i (sendByte o k s) :=
  .inl ⟨h.data, h.commanded,
    (suspendedOk_iff hi _).mpr ⟨h.rxState, h.xaddr, h.xwlen, h.xrlen, .inr (.inl ⟨rfl, hk⟩)⟩⟩

theorem settled_beginTransaction {s : State} (hd : DataOk s) (hc : Commanded i s) (hr : s.seq.rxState = .idle) :
    Settled i (beginTransaction addr wlen rlen s) := by
  unfold beginTransaction
  dsimp only
  split
  · exact BusBetween.beginRead hi ⟨hd, hc, hr, rfl, rfl, rfl⟩
  · rename_i hw
    exact .inl ⟨hd, hc, (suspendedOk_iff hi _).mpr ⟨hr, rfl, rfl, rfl, .inl ⟨rfl, hw⟩⟩⟩

theorem BusBetween.afterWriteAddress (o : State → Nat → Byte) (hw : wlen ≠ 0) {s : State}
    (h : BusBetween i addr wlen rlen s) : Settled i (afterWriteAddress o s) := by
  unfold Machine.afterWriteAddress
  split
  · exact settled_finishBus _ _ h.data
  · exact h.sendByte hi o (by bv_omega)

theorem BusBetween.afterWriteByte (o : State → Nat → Byte) {s : State} (h : BusBetween i addr wlen rlen s) :
    Settled i (afterWriteByte o s) := by
  unfold Machine.afterWriteByte
  split
  · exact settled_finishBus _ _ h.data
  · split
    · rename_i hlt
      rw [h.xwlen] at hlt
      exact h.sendByte hi o (by bv_omega)
    · exact h.beginRead hi

theorem BusBetween.afterReadAddress (hr : rlen ≠ 0) {s : State} (hok : s.seq.xok = true)
    (h : BusBetween i addr wlen rlen s) : Settled i (afterReadAddress s) := by
  unfold Machine.afterReadAddress
  split
  · exact settled_stopPhase i h.data
  · have hlt : (0 : Byte) < rlen := by bv_omega
    exact .inl ⟨h.data, h.commanded,
      (suspendedOk_iff hi _).mpr ⟨h.rxState, h.xaddr, h.xwlen, h.xrlen, .inr (.inr (.inr ⟨rfl, hlt, hok⟩))⟩⟩

/-- The captured byte goes to an index of 8 bits, inside the buffer. -/
theorem BusBetween.afterReadByte {s : State} (hb : s.seq.bmeState = .rdByte) (hok : s.seq.xok = true)
    (h : BusBetween i addr wlen rlen s) : Settled i (afterReadByte s) := by
  obtain ⟨⟨⟨hww, hwi, hrw, hri⟩, hwin, hcfg⟩, hc, hr, hxa, hxw, hxr⟩ := h
  have hd : DataOk { s with rbuf := s.rbuf.write s.seq.bidx.toNat s.ports.bus.rdata } :=
    ⟨⟨hww, hwi, Memory.write_wf _ _ hrw, Memory.write_within _ s.seq.bidx.isLt hri⟩, hwin, hcfg⟩
  unfold Machine.afterReadByte
  dsimp only
  split
  · rename_i hlt
    rw [hxr] at hlt
    have hnext : s.seq.bidx + 1 < rlen := by bv_omega
    exact .inl ⟨hd, hc, (suspendedOk_iff hi _).mpr ⟨hr, hxa, hxw, hxr, .inr (.inr (.inr ⟨hb, hnext, hok⟩))⟩⟩
  · exact settled_stopPhase i hd

/-- Going on from a wait of the engine leads to the next one or to the end. -/
theorem settled_busAdvance (o : State → Nat → Byte) {s : State} (h : Settled i s) : Settled i (busAdvance o s) := by
  rcases h with ⟨hd, hc, ha⟩ | hend
  · obtain ⟨hr, hxa, hxw, hxr, hwait⟩ := (suspendedOk_iff hi _).mp ha
    have h : BusBetween i addr wlen rlen s := ⟨hd, hc, hr, hxa, hxw, hxr⟩
    rcases busAdvance_cases o s with ⟨-, he⟩ | ⟨hb, -, he⟩ | ⟨hb, -, he⟩ | ⟨hb, -, he⟩ | ⟨hb, -, he⟩ <;> rw [he]
    · exact .inl ⟨hd, hc, ha⟩
    all_goals simp only [hb, reduceCtorEq, false_and, true_and, or_false, false_or] at hwait
    · exact h.afterWriteAddress hi o hwait
    · exact h.afterWriteByte hi o
    · obtain ⟨hlen, hok⟩ := hwait
      exact h.afterReadAddress hi hlen hok
    · obtain ⟨-, hok⟩ := hwait
      exact h.afterReadByte hi hb hok
  · rw [busAdvance_waiting o (by simp [busWaitOver, hend.bmeState])]
    exact .inr hend

theorem settled_busRun (o : State → Nat → Byte) {s : State} (h : Settled i s) : Settled i (busRun o s) :=
  settled_busAdvance hi o (settled_busAdvance hi o h)

end

/-! ### Every operation and every input keeps the invariant -/

/-- Going on with any operation leads from one of its waits to another, or to its end. -/
theorem settled_resumes (i : Instr) {s : State} (h : Settled i s) : Settled i (resumes i s) := by
  cases i with
  | waitTick => exact settled_rxRun rfl (fun _ _ h => settled_finish _ h.data) (fun hne => absurd rfl hne) h
  | sample => exact settled_rxRun rfl (fun hne => absurd rfl hne) (fun _ x _ => settled_returnSample x) h
  | nextEdge =>
    exact settled_rxRun rfl (fun _ _ h => h.startConversion fun _ => rfl) (fun _ x _ => settled_nextEdgeReading x) h
  | fullPeriod =>
    exact settled_rxRun rfl (fun _ _ h => h.startConversion fun _ => rfl) (fun _ x _ => settled_fullPeriodReading x) h
  | readPacket =>
    exact settled_rxRun rfl (fun _ _ h => h.startConversion fun _ => rfl) (fun _ x _ => settled_readPacketReading x) h
  | decode => exact h
  | decodeConfig =>
    exact settled_rxRun rfl (fun _ _ h => h.startConversion fun _ => rfl) (fun _ x _ => settled_decodeConfigReading x) h
  | busXact addr wlen rlen => exact settled_busRun (transacts_busXact addr wlen rlen) _ h
  | regWrite addr reg val => exact settled_busRun (transacts_regWrite addr reg val) _ h

/-- An accepted command comes to its first wait, or ends at once. -/
theorem settled_begins (i : Instr) {s : State} (hd : DataOk s) (hc : Commanded i s) (hr : s.seq.rxState = .idle)
    (hb : s.seq.bmeState = .idle) : Settled i (begins i s) := by
  have h : RxBetween i s := ⟨hd, hc, hb⟩
  cases i with
  | waitTick => exact .inl ⟨hd, hc, by simp [suspendedOk, begins, hb]⟩
  | sample => exact .inl ⟨hd, hc, by simp [suspendedOk, begins, hb]⟩
  | nextEdge => exact h.awaitTick fun _ => rfl
  | fullPeriod => exact h.beginPeriod fun _ => rfl
  | readPacket => exact h.beginPeriod fun _ => rfl
  | decode => exact settled_finish _ h.decodePacket.data
  | decodeConfig => exact h.beginPeriod fun _ => rfl
  | busXact addr wlen rlen => exact settled_beginTransaction (transacts_busXact addr wlen rlen) hd hc hr
  | regWrite addr reg val => exact settled_beginTransaction (transacts_regWrite addr reg val) hd hc hr

theorem inv_refuseCommand {s : State} (h : Ended s) : Inv (refuseCommand s) :=
  (inv_iff _).mpr (.inl ⟨h.data, h.busy, h.opr, h.rxState, h.bmeState⟩)

/-- A block between operations runs or refuses the command `CMD` holds. -/
theorem inv_exec_of_ended {i : Instr} {s t : State} (h : Ended s) (hcmd : decode s.cmd = .ok i)
    (he : exec i s = .next t) : Inv t := by
  rw [exec_eq_runOperation, Host.Outcome.next.injEq] at he
  subst he
  cases hw : i.wellFormed with
  | false =>
    rw [runOperation_refuse _ _ h.busy hw]
    exact inv_refuseCommand h
  | true =>
    rw [runOperation_idle _ _ h.busy hw]
    have hc : Commanded i (accept i s) := ⟨⟨rfl, rfl⟩, rfl, hw, hcmd⟩
    exact (settled_resumes i (settled_begins i (s := accept i s) h.data hc h.rxState h.bmeState)).inv

theorem inv_exec_of_suspended {i : Instr} {s t : State} (h : Suspended i s) (he : exec i s = .next t) : Inv t := by
  obtain ⟨hrun, -⟩ := h.commanded
  rw [exec_of_running hrun, Host.Outcome.next.injEq] at he
  subst he
  exact (settled_resumes i (.inl h)).inv

/-- An input leaves a busy block suspended where it is. -/
theorem suspended_takeInput {i : Instr} {s : State} (h : Suspended i s) :
    (takeInput s).2 = none ∧ Suspended i (takeInput s).1 := by
  obtain ⟨⟨hbusy, -⟩, -⟩ := h.commanded
  obtain ⟨hnone, p, l, tr, he⟩ := takeInput_busy hbusy
  rw [he]
  exact ⟨hnone, h.data, h.commanded, h.atWait⟩

/-- An input leaves an idle block between operations; a command it presents is what `CMD` holds. -/
theorem ended_takeInput {s : State} (h : Ended s) :
    Ended (takeInput s).1 ∧ ∀ w, (takeInput s).2 = some w → (takeInput s).1.cmd = w := by
  obtain ⟨hd, hb, ho, hr, he⟩ := h
  rcases takeInput_cases s with ⟨p, l, tr, hi⟩ | ⟨-, v, l, hi⟩ | ⟨-, k, v, l, hk, hi⟩ | ⟨-, w, l, -, hi⟩ <;> rw [hi]
  · exact ⟨⟨hd, hb, ho, hr, he⟩, fun _ h => nomatch h⟩
  · exact ⟨⟨hd, hb, ho, hr, he⟩, fun _ h => nomatch h⟩
  · obtain ⟨⟨hww, hwi, hrbuf⟩, hwin, hcfg⟩ := hd
    have hd' : DataOk { s with wbuf := s.wbuf.write k v, inbox := l } :=
      ⟨⟨Memory.write_wf _ _ hww, Memory.write_within _ hk hwi, hrbuf⟩, hwin, hcfg⟩
    exact ⟨⟨hd', hb, ho, hr, he⟩, fun _ h => nomatch h⟩
  · exact ⟨⟨hd, hb, ho, hr, he⟩, fun _ h => Option.some.inj h⟩

/-- Settles O13: a closed fact about one state. -/
theorem invariantHoldsAtReset : Obligations.InvariantHoldsAtReset := by
  unfold Obligations.InvariantHoldsAtReset
  decide

theorem inv_blockReset (s : State) : Inv (blockReset s) := invariantHoldsAtReset

/-- Settles O14, along what a step can do (`step_cases`): an operation that runs, from its start or from its wait, comes
to a wait of its own or ends (`Settled`); every other outcome leaves the block between operations. -/
theorem everyStepKeepsTheInvariant : Obligations.EveryStepKeepsTheInvariant := by
  unfold Obligations.EveryStepKeepsTheInvariant
  intro s t hinv hstep
  rcases step_cases hstep with ⟨-, rfl⟩ | ⟨-, hcases⟩
  · exact inv_blockReset _
  rcases (inv_iff s).mp hinv with hend | ⟨j, hsus⟩
  · obtain ⟨hend', hcmd⟩ := ended_takeInput hend
    rcases hcases with ⟨i, he, ⟨w, hw, hdec⟩ | ⟨-, ho⟩⟩ | ⟨rfl, -⟩ | ⟨rfl, -⟩
    · exact inv_exec_of_ended hend' (hcmd w hw ▸ hdec) he
    · rw [hend'.opr] at ho
      cases ho
    · exact inv_refuseCommand hend'
    · exact (inv_iff _).mpr (.inl hend')
  · obtain ⟨hnone, hsus'⟩ := suspended_takeInput hsus
    obtain ⟨⟨-, hj⟩, -⟩ := hsus'.commanded
    rcases hcases with ⟨i, he, ⟨w, hw, -⟩ | ⟨-, ho⟩⟩ | ⟨-, w, e, hw, -⟩ | ⟨-, -, ho⟩
    · simp [hnone] at hw
    · rw [hj, Option.some.injEq] at ho
      exact inv_exec_of_suspended (ho ▸ hsus') he
    · simp [hnone] at hw
    · simp [hj] at ho

end Sys2Proof.Machine

/-!
PROOFS. `CFG` and the decode of `PKT` (spec/10_state.md R25, spec/44_config_decoder.md R200, R206).
-/
namespace Sys2Proof.Machine

/-- A record has been decoded from the packet now in `PKT`. -/
def Decoded (t : State) : Prop := recordOf t.pkt = some t.cfg ∧ t.flags.cfgValid = true

/-- From `s` to `t` the record has stayed, or has been decoded and the receiver's work is done. -/
def CfgKeptOrDecoded (s t : State) : Prop := t.cfg = s.cfg ∨ (Decoded t ∧ t.seq.rxState = .idle)

theorem periodIteration_cfg (x : Sample) (s : State) : (periodIteration x s).1.cfg = s.cfg := by
  rcases periodIteration_cases x s with ⟨-, h⟩ | ⟨-, -, h⟩ | ⟨-, -, h⟩ <;> rw [h]

theorem packetIteration_cfg (x : Sample) (s : State) : (packetIteration x s).1.cfg = s.cfg := by
  rcases packetIteration_cases x s with ⟨-, h⟩ | ⟨m, r, -, -, ⟨p, -, h⟩ | ⟨-, h⟩⟩ <;> rw [h] <;>
    exact periodIteration_cfg x s

theorem nextEdgeReading_cfg (x : Sample) (s : State) : (nextEdgeReading x s).cfg = s.cfg := by
  unfold nextEdgeReading
  split <;> rename_i h <;> exact (congrArg (fun p => p.1.cfg) h).symm

theorem fullPeriodReading_cfg (x : Sample) (s : State) : (fullPeriodReading x s).cfg = s.cfg := by
  have hp := periodIteration_cfg x s
  unfold fullPeriodReading
  split <;> rename_i h <;> rw [h] at hp <;> exact hp

theorem readPacketReading_cfg (x : Sample) (s : State) : (readPacketReading x s).cfg = s.cfg := by
  have hp := packetIteration_cfg x s
  unfold readPacketReading
  split <;> rename_i h <;> rw [h] at hp <;> exact hp

theorem finish_decodePacket_cfg (s : State) : CfgKeptOrDecoded s (finish (decodePacket s)) := by
  rcases decodePacket_cases s with ⟨c, hc, h⟩ | ⟨-, h⟩ <;> rw [h]
  · exact .inr ⟨⟨hc, rfl⟩, rfl⟩
  · exact .inl rfl

theorem decodePacket_cfg_of_discard {s : State} (h : ¬(decodePacket s).flags.cfgValid = true) :
    (decodePacket s).cfg = s.cfg := by
  rcases decodePacket_cases s with ⟨c, -, he⟩ | ⟨-, he⟩ <;> rw [he] at h ⊢
  exact absurd rfl h

/-- DECODE_CONFIG moves the record only by decoding the packet it has just framed, and then returns (R206). -/
theorem decodeConfigReading_cfg (x : Sample) (s : State) : CfgKeptOrDecoded s (decodeConfigReading x s) := by
  have hp := packetIteration_cfg x s
  unfold decodeConfigReading
  split <;> rename_i t _ h <;> rw [h] at hp
  · exact .inl hp
  · split
    · exact (finish_decodePacket_cfg t).imp_left (·.trans hp)
    · rename_i hv
      exact .inl ((decodePacket_cfg_of_discard hv).trans hp)

section
variable {f : State → State} {g : Sample → State → State}
  (hf : ∀ s, (f s).cfg = s.cfg) (hg : ∀ x s, CfgKeptOrDecoded s (g x s))
include hf hg

theorem rxAdvance_cfg (s : State) : CfgKeptOrDecoded s (rxAdvance f g s) := by
  rcases rxAdvance_cases f g s with ⟨-, h⟩ | ⟨-, -, h⟩ | ⟨-, -, h⟩ <;> rw [h]
  · exact .inl rfl
  · exact .inl (hf _)
  · exact hg _ (takeReading s)

/-- Once a record is decoded there is no second advance: the receiver is idle. -/
theorem rxRun_cfg (s : State) : CfgKeptOrDecoded s (rxRun f g s) := by
  unfold rxRun
  rcases rxAdvance_cfg hf hg s with hsame | ⟨hdec, hidle⟩
  · exact (rxAdvance_cfg hf hg (rxAdvance f g s)).imp_left (·.trans hsame)
  · rw [rxAdvance_waiting f g (s := rxAdvance f g s) (by simp [rxWaitOver, hidle])]
    exact .inr ⟨hdec, hidle⟩

end

theorem beginRead_cfg (s : State) : (beginRead s).cfg = s.cfg := by
  unfold beginRead; split <;> rfl

theorem beginTransaction_cfg (addr : BusAddr) (wlen rlen : Byte) (s : State) :
    (beginTransaction addr wlen rlen s).cfg = s.cfg := by
  unfold beginTransaction
  dsimp only
  split
  · exact beginRead_cfg _
  · rfl

theorem afterWriteByte_cfg (o : State → Nat → Byte) (s : State) : (afterWriteByte o s).cfg = s.cfg := by
  unfold afterWriteByte
  split
  · rfl
  · split
    · rfl
    · exact beginRead_cfg s

/-- No bus operation moves the record. -/
theorem busAdvance_cfg (o : State → Nat → Byte) (s : State) : (busAdvance o s).cfg = s.cfg := by
  rcases busAdvance_cases o s with ⟨-, h⟩ | ⟨-, -, h⟩ | ⟨-, -, h⟩ | ⟨-, -, h⟩ | ⟨-, -, h⟩ <;> rw [h]
  · unfold afterWriteAddress; split <;> rfl
  · exact afterWriteByte_cfg o s
  · unfold afterReadAddress; split <;> rfl
  · unfold afterReadByte; dsimp only; split <;> rfl

theorem busRun_cfg (o : State → Nat → Byte) (s : State) : (busRun o s).cfg = s.cfg :=
  (busAdvance_cfg o _).trans (busAdvance_cfg o s)

/-- DECODE aside, no operation moves the record before its first wait. -/
theorem begins_cfg {i : Instr} (hi : i ≠ .decode) (s : State) : (begins i s).cfg = s.cfg := by
  cases i with
  | decode => exact absurd rfl hi
  | busXact addr wlen rlen => exact beginTransaction_cfg addr wlen rlen s
  | regWrite addr reg val => exact beginTransaction_cfg addr 2 0 s
  | _ => rfl

theorem resumes_cfg (i : Instr) (s : State) : CfgKeptOrDecoded s (resumes i s) := by
  cases i with
  | waitTick => exact rxRun_cfg (f := finish) (fun _ => rfl) (fun _ _ => .inl rfl) s
  | sample => exact rxRun_cfg (f := fun t => t) (g := returnSample) (fun _ => rfl) (fun _ _ => .inl rfl) s
  | nextEdge => exact rxRun_cfg (f := startConversion) (fun _ => rfl) (fun x s => .inl (nextEdgeReading_cfg x s)) s
  | fullPeriod => exact rxRun_cfg (f := startConversion) (fun _ => rfl) (fun x s => .inl (fullPeriodReading_cfg x s)) s
  | readPacket => exact rxRun_cfg (f := startConversion) (fun _ => rfl) (fun x s => .inl (readPacketReading_cfg x s)) s
  | decode => exact .inl rfl
  | decodeConfig => exact rxRun_cfg (f := startConversion) (fun _ => rfl) decodeConfigReading_cfg s
  | busXact addr wlen rlen => exact .inl (busRun_cfg _ s)
  | regWrite addr reg val => exact .inl (busRun_cfg _ s)

theorem exec_cfg {i : Instr} {s t : State} (h : exec i s = .next t) : t.cfg = s.cfg ∨ Decoded t := by
  rw [exec_eq_runOperation, Host.Outcome.next.injEq] at h
  subst h
  rcases runOperation_cases i (begins i) (resumes i) s with ⟨-, -, he⟩ | ⟨-, -, he⟩ | ⟨-, he⟩ | ⟨-, -, he⟩ <;> rw [he]
  · by_cases hi : i = .decode
    · subst hi
      exact (finish_decodePacket_cfg (accept .decode s)).imp_right And.left
    · exact (resumes_cfg i (begins i (accept i s))).imp (·.trans (begins_cfg hi _)) And.left
  · exact .inl rfl
  · exact (resumes_cfg i s).imp_right And.left
  · exact .inl rfl

theorem takeInput_cfg (s : State) : (takeInput s).1.cfg = s.cfg := by
  rcases takeInput_cases s with ⟨p, l, tr, h⟩ | ⟨-, v, l, h⟩ | ⟨-, ix, v, l, -, h⟩ | ⟨-, w, l, -, h⟩ <;> rw [h]

/-- Settles O40, along what a step can do (`step_cases`): only an operation moves the record, and only by a decode. -/
theorem cfgChangesOnlyByASuccessfulDecode : Obligations.CfgChangesOnlyByASuccessfulDecode := by
  unfold Obligations.CfgChangesOnlyByASuccessfulDecode
  intro s t hstep hrst
  rcases step_cases hstep with ⟨hr, -⟩ | ⟨-, ⟨i, he, -⟩ | ⟨rfl, -⟩ | ⟨rfl, -⟩⟩
  · simp [hrst] at hr
  · rcases exec_cfg he with hsame | ⟨hrec, hvalid⟩
    · exact .inl (hsame.trans (takeInput_cfg s))
    · exact .inr ⟨hrec, recordOf_legal hrec, hvalid⟩
  · exact .inl (takeInput_cfg s)
  · exact .inl (takeInput_cfg s)

end Sys2Proof.Machine

/-!
PROOFS. The transient sequencing registers: which of them are live in which operation (`LiveAlike`), and that states
that agree in the live ones run alike (spec/10_state.md R50, R67; spec/93_implementation_defined.md U17).
-/
namespace Sys2Proof.Machine

/-! ### States that differ in registers that are not live -/

/-- `u` is `s` but for the sequencing state, of which operation and both suspension points agree, and `P` holds. -/
def Alike (P : Sequencing → Sequencing → Prop) (s u : State) : Prop :=
  ∃ r, u = { s with seq := r } ∧ r.opr = s.seq.opr ∧ r.rxState = s.seq.rxState ∧ r.bmeState = s.seq.bmeState ∧ P s.seq r

/-- In an operation that measures periods `EDGE_NO` is live, and `D1` after the first edge (R170); in the receiver's
others neither is. -/
def PeriodAlike (measures : Bool) (q r : Sequencing) : Prop :=
  measures = true → r.edgeNo = q.edgeNo ∧ (q.edgeNo ≠ 0 → r.d1 = q.d1)

/-- In a transaction the latched operands are live, `BIDX` while a byte is in flight, `XOK` in the read phase (R221). -/
def TransactionAlike (q r : Sequencing) : Prop :=
  r.xaddr = q.xaddr ∧ r.xwlen = q.xwlen ∧ r.xrlen = q.xrlen ∧
  (q.bmeState = .wrByte ∨ q.bmeState = .rdByte → r.bidx = q.bidx) ∧
  (q.bmeState = .addrR ∨ q.bmeState = .rdByte → r.xok = q.xok)

/-- Agreement in the transient registers that are live while operation `i` is suspended. -/
def LiveAlike : Instr → Sequencing → Sequencing → Prop
  | .waitTick => PeriodAlike false
  | .sample => PeriodAlike false
  | .nextEdge => PeriodAlike false
  | .fullPeriod => PeriodAlike true
  | .readPacket => PeriodAlike true
  | .decode => PeriodAlike false
  | .decodeConfig => PeriodAlike true
  | .busXact _ _ _ => TransactionAlike
  | .regWrite _ _ _ => TransactionAlike

/-- Agreement in everything that is live on an idle block. -/
abbrev AlikeIdle : State → State → Prop := Alike (PeriodAlike false)

theorem Alike.idle {P : Sequencing → Sequencing → Prop} {s u : State} (h : Alike P s u) : AlikeIdle s u := by
  obtain ⟨r, hu, ho, hr, hb, -⟩ := h
  exact ⟨r, hu, ho, hr, hb, fun hf => nomatch hf⟩

/-! ### The receiver -/

section
variable {m : Bool} {s u : State}

theorem Alike.finish (h : Alike (PeriodAlike m) s u) : Alike (PeriodAlike m) (finish s) (finish u) := by
  obtain ⟨r, rfl, -, -, -, hp⟩ := h
  exact ⟨_, rfl, rfl, rfl, rfl, hp⟩

/-- A move of the receiver that, of the sequencing state, reads nothing and writes its suspension point only. -/
theorem Alike.move {f : State → State} {x : RxState}
    (hf : ∀ s r, f { s with seq := r } = { f s with seq := { r with rxState := x } })
    (h : Alike (PeriodAlike m) s u) : Alike (PeriodAlike m) (f s) (f u) := by
  obtain ⟨r, rfl, ho, -, hb, hp⟩ := h
  have hs : (f s).seq = { s.seq with rxState := x } := congrArg State.seq (hf s s.seq)
  refine ⟨_, hf s r, ?_⟩
  rw [hs]
  exact ⟨ho, rfl, hb, hp⟩

theorem Alike.consumeTick (h : Alike (PeriodAlike m) s u) : Alike (PeriodAlike m) (consumeTick s) (consumeTick u) :=
  h.move fun _ _ => rfl

theorem Alike.takeReading (h : Alike (PeriodAlike m) s u) : Alike (PeriodAlike m) (takeReading s) (takeReading u) :=
  h.move fun _ _ => rfl

theorem Alike.awaitTick (h : Alike (PeriodAlike m) s u) : Alike (PeriodAlike m) (awaitTick s) (awaitTick u) :=
  h.move fun _ _ => rfl

theorem Alike.startConversion (h : Alike (PeriodAlike m) s u) :
    Alike (PeriodAlike m) (startConversion s) (startConversion u) :=
  h.move fun _ _ => rfl

/-- FULL_PERIOD writes `EDGE_NO` before it reads it, and `D1` is not live before the first edge. -/
theorem Alike.beginPeriod (h : AlikeIdle s u) : Alike (PeriodAlike m) (beginPeriod s) (beginPeriod u) := by
  obtain ⟨r, rfl, ho, -, hb, -⟩ := h
  exact ⟨_, rfl, ho, rfl, hb, fun _ => ⟨rfl, fun hne => absurd rfl hne⟩⟩

theorem Alike.returnSample (x : Sample) (h : Alike (PeriodAlike m) s u) :
    Alike (PeriodAlike m) (returnSample x s) (returnSample x u) := by
  obtain ⟨r, rfl, -, -, -, hp⟩ := h
  exact ⟨_, rfl, rfl, rfl, rfl, hp⟩

theorem Alike.nextEdgeReading (x : Sample) (h : Alike (PeriodAlike m) s u) :
    Alike (PeriodAlike m) (nextEdgeReading x s) (nextEdgeReading x u) := by
  obtain ⟨r, rfl, ho, -, hb, hp⟩ := h
  unfold Machine.nextEdgeReading
  simp only [edgeIteration_eq]
  cases (detect x s.rx).2 with
  | some d => exact ⟨_, rfl, rfl, rfl, rfl, hp⟩
  | none => exact ⟨_, rfl, ho, rfl, hb, hp⟩

/-- Iterations from alike states give the same result and alike states. -/
theorem Alike.periodIteration (x : Sample) (h : Alike (PeriodAlike true) s u) :
    ∃ t v o, periodIteration x s = (t, o) ∧ periodIteration x u = (v, o) ∧ Alike (PeriodAlike true) t v := by
  obtain ⟨r, rfl, ho, hr, hb, hp⟩ := h
  obtain ⟨hedge, hd1⟩ := hp rfl
  unfold Machine.periodIteration
  simp only [edgeIteration_eq]
  cases (detect x s.rx).2 with
  | none => exact ⟨_, _, _, rfl, rfl, r, rfl, ho, hr, hb, hp⟩
  | some d =>
    by_cases he : s.seq.edgeNo = 0
    · simp only [hedge, he, if_true]
      exact ⟨_, _, _, rfl, rfl, _, rfl, ho, hr, hb, fun _ => ⟨rfl, fun _ => rfl⟩⟩
    · simp only [hedge, he, if_false, hd1 he]
      exact ⟨_, _, _, rfl, rfl, r, rfl, ho, hr, hb, hp⟩

theorem Alike.packetIteration (x : Sample) (h : Alike (PeriodAlike true) s u) :
    ∃ t v o, packetIteration x s = (t, o) ∧ packetIteration x u = (v, o) ∧ Alike (PeriodAlike true) t v := by
  obtain ⟨t, v, o, hs, hu, r, rfl, ho, hr, hb, hp⟩ := h.periodIteration x
  simp only [Machine.packetIteration, hs, hu]
  cases o with
  | none => exact ⟨_, _, _, rfl, rfl, r, rfl, ho, hr, hb, hp⟩
  | some d =>
    dsimp only
    cases framePacket (newest (pushPeriod d t.rx)) (oldestFirst (pushPeriod d t.rx)) with
    | some p => exact ⟨_, _, _, rfl, rfl, r, rfl, ho, hr, hb, hp⟩
    | none => exact ⟨_, _, _, rfl, rfl, _, rfl, ho, hr, hb, fun _ => ⟨rfl, fun hne => absurd rfl hne⟩⟩

theorem Alike.decodePacket (h : Alike (PeriodAlike m) s u) :
    Alike (PeriodAlike m) (decodePacket s) (decodePacket u) := by
  obtain ⟨r, rfl, ho, hr, hb, hp⟩ := h
  unfold Machine.decodePacket
  dsimp only
  cases recordOf s.pkt with
  | some c => exact ⟨r, rfl, ho, hr, hb, hp⟩
  | none => exact ⟨r, rfl, ho, hr, hb, hp⟩

theorem Alike.fullPeriodReading (x : Sample) (h : Alike (PeriodAlike true) s u) :
    Alike (PeriodAlike true) (fullPeriodReading x s) (fullPeriodReading x u) := by
  obtain ⟨t, v, o, hs, hu, htv⟩ := h.periodIteration x
  simp only [Machine.fullPeriodReading, hs, hu]
  cases o with
  | none => exact htv.awaitTick
  | some m =>
    obtain ⟨r, rfl, -, -, -, hp⟩ := htv
    exact ⟨_, rfl, rfl, rfl, rfl, hp⟩

theorem Alike.readPacketReading (x : Sample) (h : Alike (PeriodAlike true) s u) :
    Alike (PeriodAlike true) (readPacketReading x s) (readPacketReading x u) := by
  obtain ⟨t, v, o, hs, hu, htv⟩ := h.packetIteration x
  simp only [Machine.readPacketReading, hs, hu]
  cases o with
  | none => exact htv.awaitTick
  | some p => exact htv.finish

theorem Alike.decodeConfigReading (x : Sample) (h : Alike (PeriodAlike true) s u) :
    Alike (PeriodAlike true) (decodeConfigReading x s) (decodeConfigReading x u) := by
  obtain ⟨t, v, o, hs, hu, htv⟩ := h.packetIteration x
  simp only [Machine.decodeConfigReading, hs, hu]
  cases o with
  | none => exact htv.awaitTick
  | some p =>
    have hd := htv.decodePacket
    have hvalid : (Machine.decodePacket v).flags = (Machine.decodePacket t).flags := by
      obtain ⟨r, he, -⟩ := hd
      rw [he]
    simp only [hvalid]
    split
    · exact hd.finish
    · exact hd.idle.beginPeriod

/-- The receiver's waits look at the suspension point and the ports only, in which alike states agree. -/
theorem Alike.rxAdvance {f : State → State} {g : Sample → State → State}
    (hf : ∀ s u, Alike (PeriodAlike m) s u → Alike (PeriodAlike m) (f s) (f u))
    (hg : ∀ x s u, Alike (PeriodAlike m) s u → Alike (PeriodAlike m) (g x s) (g x u))
    (h : Alike (PeriodAlike m) s u) : Alike (PeriodAlike m) (rxAdvance f g s) (rxAdvance f g u) := by
  have htick := hf _ _ h.consumeTick
  have hreading := hg s.ports.adcData _ _ h.takeReading
  have hsame := h
  obtain ⟨r, rfl, -, hr, -⟩ := h
  unfold Machine.rxAdvance
  simp only [hr]
  cases s.seq.rxState with
  | idle => exact hsame
  | waitTick =>
    dsimp only
    split
    · exact htick
    · exact hsame
  | waitAdc =>
    dsimp only
    split
    · exact hreading
    · exact hsame

theorem Alike.rxRun {f : State → State} {g : Sample → State → State}
    (hf : ∀ s u, Alike (PeriodAlike m) s u → Alike (PeriodAlike m) (f s) (f u))
    (hg : ∀ x s u, Alike (PeriodAlike m) s u → Alike (PeriodAlike m) (g x s) (g x u))
    (h : Alike (PeriodAlike m) s u) : Alike (PeriodAlike m) (rxRun f g s) (rxRun f g u) :=
  (h.rxAdvance hf hg).rxAdvance hf hg

end

/-! ### The bus engine -/

/-- Agreement in the latched operands (R221). -/
def OperandsAlike (q r : Sequencing) : Prop := r.xaddr = q.xaddr ∧ r.xwlen = q.xwlen ∧ r.xrlen = q.xrlen

/-- A source of outbound bytes that is not in the sequencing state. -/
def ReadsNoSequencing (o : State → Nat → Byte) : Prop := ∀ s r k, o { s with seq := r } k = o s k

theorem fromWbuf_readsNoSequencing : ReadsNoSequencing fromWbuf := fun _ _ _ => rfl

theorem fromOperands_readsNoSequencing (reg val : Byte) : ReadsNoSequencing (fromOperands reg val) := fun _ _ _ => rfl

section
variable {s u : State}

theorem Alike.operands (h : Alike TransactionAlike s u) : Alike OperandsAlike s u := by
  obtain ⟨r, hu, ho, hr, hb, ha, hw, hl, -⟩ := h
  exact ⟨r, hu, ho, hr, hb, ha, hw, hl⟩

theorem Alike.port (c : BusCmd) (h : Alike OperandsAlike s u) : Alike OperandsAlike (port c s) (port c u) := by
  obtain ⟨r, rfl, ho, hr, hb, hp⟩ := h
  exact ⟨r, rfl, ho, hr, hb, hp⟩

/-- Between operations no transient register is live, in particular not `BIDX` and not `XOK`. -/
theorem Alike.finishBus (ok : Bool) (h : Alike OperandsAlike s u) :
    Alike TransactionAlike (finishBus ok s) (finishBus ok u) := by
  obtain ⟨r, rfl, -, -, -, ha, hw, hl⟩ := h
  exact ⟨_, rfl, rfl, rfl, rfl, ha, hw, hl, by simp, by simp⟩

theorem Alike.stopPhase (h : Alike OperandsAlike s u) (hok : u.seq.xok = s.seq.xok) :
    Alike TransactionAlike (stopPhase s) (stopPhase u) := by
  obtain ⟨r, rfl, -, -, -, ha, hw, hl⟩ := h
  unfold Machine.stopPhase
  dsimp only at hok ⊢
  rw [hok]
  exact ⟨_, rfl, rfl, rfl, rfl, ha, hw, hl, by simp, by simp⟩

/-- The read phase begins with `XOK` written. -/
theorem Alike.beginRead (h : Alike OperandsAlike s u) : Alike TransactionAlike (beginRead s) (beginRead u) := by
  obtain ⟨r, rfl, ho, hr, hb, ha, hw, hl⟩ := h
  unfold Machine.beginRead
  simp only [ha, hl]
  split
  · exact Alike.stopPhase ⟨_, rfl, ho, hr, hb, rfl, hw, rfl⟩ rfl
  · exact ⟨_, rfl, ho, hr, rfl, rfl, hw, rfl, by simp, by simp⟩

/-- A byte goes out with `BIDX` written. -/
theorem Alike.sendByte {o : State → Nat → Byte} (hout : ReadsNoSequencing o) (k : Byte) (h : Alike OperandsAlike s u) :
    Alike TransactionAlike (sendByte o k s) (sendByte o k u) := by
  obtain ⟨r, rfl, ho, hr, -, ha, hw, hl⟩ := h
  unfold Machine.sendByte
  rw [hout s r]
  exact ⟨_, rfl, ho, hr, rfl, ha, hw, hl, by simp, by simp⟩

/-- A transaction writes its operands before anything reads them. -/
theorem Alike.beginTransaction (addr : BusAddr) (wlen rlen : Byte) (h : AlikeIdle s u) :
    Alike TransactionAlike (beginTransaction addr wlen rlen s) (beginTransaction addr wlen rlen u) := by
  obtain ⟨r, rfl, ho, hr, hb, -⟩ := h
  unfold Machine.beginTransaction
  dsimp only
  split
  · exact Alike.beginRead ⟨_, rfl, ho, hr, hb, rfl, rfl, rfl⟩
  · exact ⟨_, rfl, ho, hr, rfl, rfl, rfl, rfl, by simp, by simp⟩

theorem Alike.afterWriteAddress {o : State → Nat → Byte} (hout : ReadsNoSequencing o) (h : Alike OperandsAlike s u) :
    Alike TransactionAlike (afterWriteAddress o s) (afterWriteAddress o u) := by
  have hports : u.ports = s.ports := by obtain ⟨r, rfl, -⟩ := h; rfl
  unfold Machine.afterWriteAddress
  rw [hports]
  split
  · exact (h.port _).finishBus _
  · exact h.sendByte hout 0

theorem Alike.afterWriteByte {o : State → Nat → Byte} (hout : ReadsNoSequencing o) (h : Alike OperandsAlike s u)
    (hidx : u.seq.bidx = s.seq.bidx) : Alike TransactionAlike (afterWriteByte o s) (afterWriteByte o u) := by
  have hports : u.ports = s.ports := by obtain ⟨r, rfl, -⟩ := h; rfl
  have hlen : u.seq.xwlen = s.seq.xwlen := by obtain ⟨r, rfl, -, -, -, -, hw, -⟩ := h; exact hw
  unfold Machine.afterWriteByte
  rw [hports, hidx, hlen]
  split
  · exact (h.port _).finishBus _
  · split
    · exact h.sendByte hout _
    · exact h.beginRead

/-- The read loop begins with `BIDX` written and `XOK` as the read phase found it. -/
theorem Alike.afterReadAddress (h : Alike OperandsAlike s u) (hok : u.seq.xok = s.seq.xok) :
    Alike TransactionAlike (afterReadAddress s) (afterReadAddress u) := by
  obtain ⟨r, rfl, ho, hr, hb, ha, hw, hl⟩ := h
  unfold Machine.afterReadAddress
  dsimp only
  split
  · exact Alike.stopPhase ⟨_, rfl, ho, hr, hb, ha, hw, hl⟩ rfl
  · exact ⟨_, rfl, ho, hr, rfl, ha, hw, hl, fun _ => rfl, fun _ => hok⟩

theorem Alike.afterReadByte (h : Alike OperandsAlike s u) (hidx : u.seq.bidx = s.seq.bidx)
    (hok : u.seq.xok = s.seq.xok) : Alike TransactionAlike (afterReadByte s) (afterReadByte u) := by
  obtain ⟨r, rfl, ho, hr, hb, ha, hw, hl⟩ := h
  unfold Machine.afterReadByte
  dsimp only at hidx hok ⊢
  rw [hidx, hl]
  split
  · exact ⟨_, rfl, ho, hr, hb, ha, hw, rfl, fun _ => rfl, fun _ => hok⟩
  · exact Alike.stopPhase ⟨_, rfl, ho, hr, hb, ha, hw, hl⟩ hok

theorem Alike.busAdvance {o : State → Nat → Byte} (hout : ReadsNoSequencing o) (h : Alike TransactionAlike s u) :
    Alike TransactionAlike (busAdvance o s) (busAdvance o u) := by
  have hx := h.operands
  obtain ⟨hports, hstate, hidx, hok⟩ : u.ports = s.ports ∧ u.seq.bmeState = s.seq.bmeState ∧
      (s.seq.bmeState = .wrByte ∨ s.seq.bmeState = .rdByte → u.seq.bidx = s.seq.bidx) ∧
      (s.seq.bmeState = .addrR ∨ s.seq.bmeState = .rdByte → u.seq.xok = s.seq.xok) := by
    obtain ⟨r, rfl, -, -, hb, -, -, -, hidx, hok⟩ := h
    exact ⟨rfl, hb, hidx, hok⟩
  unfold Machine.busAdvance
  rw [hports, hstate]
  cases hb : s.seq.bmeState with
  | idle => exact h
  | addrW =>
    dsimp only
    split
    · exact hx.afterWriteAddress hout
    · exact h
  | wrByte =>
    dsimp only
    split
    · exact hx.afterWriteByte hout (hidx (.inl hb))
    · exact h
  | addrR =>
    dsimp only
    split
    · exact hx.afterReadAddress (hok (.inl hb))
    · exact h
  | rdByte =>
    dsimp only
    split
    · exact hx.afterReadByte (hidx (.inr hb)) (hok (.inr hb))
    · exact h
  | stop => exact h

theorem Alike.busRun {o : State → Nat → Byte} (hout : ReadsNoSequencing o) (h : Alike TransactionAlike s u) :
    Alike TransactionAlike (busRun o s) (busRun o u) :=
  (h.busAdvance hout).busAdvance hout

/-! ### Operations, steps and runs -/

theorem Alike.resumes (i : Instr) (h : Alike (LiveAlike i) s u) : Alike (LiveAlike i) (resumes i s) (resumes i u) := by
  cases i with
  | waitTick => exact Alike.rxRun (m := false) (fun _ _ h => h.finish) (fun _ _ _ h => h) h
  | sample => exact Alike.rxRun (m := false) (fun _ _ h => h) (fun x _ _ h => h.returnSample x) h
  | nextEdge => exact Alike.rxRun (m := false) (fun _ _ h => h.startConversion) (fun x _ _ h => h.nextEdgeReading x) h
  | fullPeriod =>
    exact Alike.rxRun (m := true) (fun _ _ h => h.startConversion) (fun x _ _ h => h.fullPeriodReading x) h
  | readPacket =>
    exact Alike.rxRun (m := true) (fun _ _ h => h.startConversion) (fun x _ _ h => h.readPacketReading x) h
  | decode => exact h
  | decodeConfig =>
    exact Alike.rxRun (m := true) (fun _ _ h => h.startConversion) (fun x _ _ h => h.decodeConfigReading x) h
  | busXact addr wlen rlen => exact Alike.busRun fromWbuf_readsNoSequencing h
  | regWrite addr reg val => exact Alike.busRun (fromOperands_readsNoSequencing reg val) h

/-- Up to its first wait an operation reads no transient register that it has not written. -/
theorem Alike.begins (i : Instr) (h : AlikeIdle s u) : Alike (LiveAlike i) (begins i s) (begins i u) := by
  cases i with
  | waitTick => exact h.awaitTick
  | sample => exact h.startConversion
  | nextEdge => exact h.awaitTick
  | fullPeriod => exact h.beginPeriod
  | readPacket => exact h.beginPeriod
  | decode => exact h.decodePacket.finish
  | decodeConfig => exact h.beginPeriod
  | busXact addr wlen rlen => exact h.beginTransaction addr wlen rlen
  | regWrite addr reg val => exact h.beginTransaction addr 2 0

theorem Alike.accept (i : Instr) (h : AlikeIdle s u) : AlikeIdle (accept i s) (accept i u) := by
  obtain ⟨r, rfl, -, hr, hb, hp⟩ := h
  exact ⟨_, rfl, rfl, hr, hb, hp⟩

/-- Agreement in everything that is live, whatever the block is doing. -/
def Indistinguishable (s u : State) : Prop := AlikeIdle s u ∧ ∀ i, s.seq.opr = some i → Alike (LiveAlike i) s u

/-- After an operation that goes on or ends, what is live for it is all that is live. -/
theorem Alike.indistinguishable {i : Instr} (h : Alike (LiveAlike i) s u)
    (ho : s.seq.opr = some i ∨ s.seq.opr = none) : Indistinguishable s u := by
  refine ⟨h.idle, fun j hj => ?_⟩
  rcases ho with ho | ho <;> rw [ho] at hj <;> cases hj
  exact h

theorem resumes_goesOnOrEnds (i : Instr) (s : State) : GoesOnOrEnds s (resumes i s) := by
  rcases resumes_cases i with rfl | ⟨-, f, g, hf, hg, hr⟩ | ⟨-, o, hr⟩
  · exact .inl rfl
  · exact hr ▸ rxRun_goesOnOrEnds hf hg s
  · exact hr ▸ (busRun_settles o s).1

theorem indistinguishable_refuseCommand (h : Indistinguishable s u) :
    Indistinguishable (refuseCommand s) (refuseCommand u) := by
  have hrefuse {P : Sequencing → Sequencing → Prop} (h : Alike P s u) :
      Alike P (refuseCommand s) (refuseCommand u) := by
    obtain ⟨r, rfl, hr⟩ := h
    exact ⟨r, rfl, hr⟩
  exact ⟨hrefuse h.1, fun i hi => hrefuse (h.2 i hi)⟩

/-- In reset no transient register is different any more. -/
theorem indistinguishable_blockReset (h : Indistinguishable s u) : Indistinguishable (blockReset s) (blockReset u) := by
  obtain ⟨⟨r, rfl, -⟩, -⟩ := h
  exact ⟨⟨_, rfl, rfl, rfl, rfl, fun hf => nomatch hf⟩, fun i hi => nomatch hi⟩

theorem indistinguishable_runOperation (i : Instr) (h : Indistinguishable s u) :
    Indistinguishable (runOperation i (begins i) (resumes i) s) (runOperation i (begins i) (resumes i) u) := by
  obtain ⟨hidle, hlive⟩ := h
  obtain ⟨hflags, hopr⟩ : u.flags = s.flags ∧ u.seq.opr = s.seq.opr := by
    obtain ⟨r, rfl, ho, -⟩ := hidle
    exact ⟨rfl, ho⟩
  unfold runOperation
  rw [hflags, hopr]
  split
  · split
    · rename_i ho
      exact ((hlive i ho).resumes i).indistinguishable ((resumes_goesOnOrEnds i s).imp_left (·.trans ho))
    · exact ⟨hidle, hlive⟩
  · split
    · exact (((hidle.accept i).begins i).resumes i).indistinguishable
        ((begins_goesOnOrEnds i _).trans (resumes_goesOnOrEnds i _))
    · exact indistinguishable_refuseCommand ⟨hidle, hlive⟩

/-- What the host reads does not depend on the sequencing state (R21, R70). -/
theorem hostReadValue_seq (sp : Space) (index : Nat) (s : State) (r : Sequencing) :
    hostReadValue sp index { s with seq := r } = hostReadValue sp index s := by
  cases sp with
  | reg => unfold hostReadValue readRegister; split <;> rfl
  | _ => rfl

theorem hostWrite_seq (sp : Space) (index : Nat) (value : Word) (s : State) (r : Sequencing) :
    hostWrite sp index value { s with seq := r } =
      ({ (hostWrite sp index value s).1 with seq := r }, (hostWrite sp index value s).2) := by
  unfold hostWrite
  split
  · rfl
  · cases sp with
    | reg =>
      dsimp only
      split
      · rfl
      · split <;> rfl
    | wbuf => dsimp only; split <;> rfl
    | rbuf => rfl
    | ring => rfl

/-- No input reads the sequencing state or writes it. -/
theorem takeInput_seq (s : State) (r : Sequencing) :
    takeInput { s with seq := r } = ({ (takeInput s).1 with seq := r }, (takeInput s).2) := by
  by_cases hi : s.inbox = []
  · rw [takeInput_nil hi, takeInput_nil (s := { s with seq := r }) hi]
  · obtain ⟨e, rest, hi⟩ := List.exists_cons_of_ne_nil hi
    rw [takeInput_cons hi, takeInput_cons (s := { s with seq := r }) hi]
    cases e with
    | hostRead sp ix =>
      simp only [applyInput, emit]
      rw [hostReadValue_seq sp ix { s with inbox := rest } r]
    | hostWrite sp ix v => exact hostWrite_seq sp ix v { s with inbox := rest } r
    | _ => rfl

theorem takeInput_seq_eq (s : State) : (takeInput s).1.seq = s.seq := by
  rcases takeInput_cases s with ⟨p, l, tr, h⟩ | ⟨-, v, l, h⟩ | ⟨-, ix, v, l, -, h⟩ | ⟨-, w, l, -, h⟩ <;> rw [h]

theorem Alike.takeInput {P : Sequencing → Sequencing → Prop} (h : Alike P s u) :
    Alike P (takeInput s).1 (takeInput u).1 ∧ (takeInput u).2 = (takeInput s).2 := by
  obtain ⟨r, rfl, hr⟩ := h
  rw [takeInput_seq s r]
  exact ⟨⟨r, rfl, by rwa [takeInput_seq_eq]⟩, rfl⟩

theorem Indistinguishable.takeInput (h : Indistinguishable s u) :
    Indistinguishable (takeInput s).1 (takeInput u).1 ∧ (takeInput u).2 = (takeInput s).2 :=
  ⟨⟨h.1.takeInput.1, fun i hi => ((h.2 i (takeInput_seq_eq s ▸ hi)).takeInput).1⟩, h.1.takeInput.2⟩

/-- Two indistinguishable states step to two such states. -/
theorem Indistinguishable.step (h : Indistinguishable s u) :
    ∃ t v, step s = .next t ∧ step u = .next v ∧ Indistinguishable t v := by
  unfold Machine.step
  obtain ⟨hin, hcmd⟩ := h.takeInput
  generalize Machine.takeInput s = a at hin hcmd ⊢
  generalize Machine.takeInput u = b at hin hcmd ⊢
  obtain ⟨s', c⟩ := a
  obtain ⟨u', c'⟩ := b
  dsimp only at hin hcmd ⊢
  subst hcmd
  obtain ⟨hports, hopr⟩ : u'.ports = s'.ports ∧ u'.seq.opr = s'.seq.opr := by
    obtain ⟨⟨r, rfl, ho, -⟩, -⟩ := hin
    exact ⟨rfl, ho⟩
  rw [hports, hopr]
  split
  · exact ⟨_, _, rfl, rfl, indistinguishable_blockReset hin⟩
  cases c' with
  | some w =>
    dsimp only
    cases decode w with
    | ok i => exact ⟨_, _, exec_eq_runOperation i s', exec_eq_runOperation i u', indistinguishable_runOperation i hin⟩
    | error e => exact ⟨_, _, rfl, rfl, indistinguishable_refuseCommand hin⟩
  | none =>
    cases s'.seq.opr with
    | some i => exact ⟨_, _, exec_eq_runOperation i s', exec_eq_runOperation i u', indistinguishable_runOperation i hin⟩
    | none => exact ⟨_, _, rfl, rfl, hin⟩

theorem Indistinguishable.run (n : Nat) (h : Indistinguishable s u) :
    ∃ t v, Sys2Proof.core.run n s = .next t ∧ Sys2Proof.core.run n u = .next v ∧ Indistinguishable t v := by
  induction n generalizing s u with
  | zero => exact ⟨s, u, rfl, rfl, h⟩
  | succ n ih =>
    obtain ⟨t, v, hs, hu, htv⟩ := h.step
    obtain ⟨t', v', ht, hv, hend⟩ := ih htv
    refine ⟨t', v', ?_, ?_, hend⟩
    · have hs' : Sys2Proof.core.step s = .next t := hs
      simpa only [Host.Core.run, hs'] using ht
    · have hu' : Sys2Proof.core.step u = .next v := hu
      simpa only [Host.Core.run, hu'] using hv

end

/-- Settles O56: an idle block has no live transient register, and indistinguishable states run alike. -/
theorem transientStateIsWrittenBeforeItIsRead : Obligations.TransientStateIsWrittenBeforeItIsRead := by
  unfold Obligations.TransientStateIsWrittenBeforeItIsRead
  intro s q n _ hopr
  have h : Indistinguishable s
      { s with seq := { q with opr := none, rxState := s.seq.rxState, bmeState := s.seq.bmeState } } :=
    ⟨⟨_, rfl, hopr.symm, rfl, rfl, fun hf => nomatch hf⟩, fun i hi => by simp [hopr] at hi⟩
  obtain ⟨t, u, ht, hu, ⟨r, rfl, ho, hr, hb, -⟩, -⟩ := h.run n
  exact ⟨t, _, ht, hu, rfl, rfl, rfl, rfl, rfl, rfl, rfl, rfl, rfl, rfl, rfl, ho, hr, hb⟩

end Sys2Proof.Machine

/-!
PROOFS. Host writes and the host's accesses that reach nothing (spec/20_memory.md R70, R72, R81; spec/10_state.md R21,
R24, R30, R42): where a write goes, where an access goes nowhere, and the step whose input it is.
-/
namespace Sys2Proof.Machine

/-! ### Accesses that reach nothing -/

/-- An index outside its space reads 0 (R70, R21). -/
theorem hostReadValue_of_outside {sp : Space} {index : Nat} (s : State) (h : outsideSpace sp index = true) :
    hostReadValue sp index s = 0 := by
  cases sp with
  | reg => exact hostReadValue_reg_of_le s (by simpa [outsideSpace] using h)
  | wbuf | rbuf | ring =>
    have hout := of_decide_eq_true h
    exact if_neg (Nat.not_lt.mpr hout)

theorem hostWrite_of_busy {s : State} (sp : Space) (index : Nat) (value : Word) (hbusy : s.flags.busy = true) :
    hostWrite sp index value s = (s, none) := if_pos hbusy

theorem hostWrite_rbuf (index : Nat) (value : Word) (s : State) : hostWrite .rbuf index value s = (s, none) :=
  ite_self _

theorem hostWrite_ring (index : Nat) (value : Word) (s : State) : hostWrite .ring index value s = (s, none) :=
  ite_self _

/-- Of the registers only `PKT` and `CMD` can be written (R72). -/
theorem hostWrite_reg_of_readOnly {index : Nat} (value : Word) (s : State) (h2 : index ≠ 2) (h8 : index ≠ 8) :
    hostWrite .reg index value s = (s, none) := by
  simp [hostWrite, h2, h8]

theorem hostWrite_of_outside {sp : Space} {index : Nat} (value : Word) (s : State) (h : outsideSpace sp index = true) :
    hostWrite sp index value s = (s, none) := by
  cases sp with
  | reg =>
    have hout : 9 ≤ index := of_decide_eq_true h
    exact hostWrite_reg_of_readOnly value s (by omega) (by omega)
  | wbuf =>
    have hout : ¬ index < params.bufLen := Nat.not_lt.mpr (of_decide_eq_true h)
    simp only [hostWrite, if_neg hout, ite_self]
  | rbuf => exact hostWrite_rbuf index value s
  | ring => exact hostWrite_ring index value s

/-- Each way a host write is ignored (R70, R72, R30). -/
theorem hostWrite_of_ignored {sp : Space} {index : Nat} {s : State} (value : Word) (h : WriteIgnored sp index s) :
    hostWrite sp index value s = (s, none) := by
  rcases h with hout | rfl | rfl | ⟨rfl, h2, h8⟩ | hbusy
  · exact hostWrite_of_outside value s hout
  · exact hostWrite_rbuf index value s
  · exact hostWrite_ring index value s
  · exact hostWrite_reg_of_readOnly value s h2 h8
  · exact hostWrite_of_busy sp index value hbusy

/-- Whether a write is ignored does not depend on what else is to come, so taking it leaves only the rest to come. -/
theorem takeInput_hostWrite_of_ignored {sp : Space} {index : Nat} {value : Word} {s : State} {rest : List Input}
    (h : WriteIgnored sp index s) (hin : s.inbox = .hostWrite sp index value :: rest) :
    takeInput s = ({ s with inbox := rest }, none) := by
  rw [takeInput_cons hin]
  exact hostWrite_of_ignored (s := { s with inbox := rest }) value h

/-- Settles O57: neither access reaches anything, and a block at rest does nothing on account of it. -/
theorem hostAccessElsewhereReachesNothing : Obligations.HostAccessElsewhereReachesNothing := by
  unfold Obligations.HostAccessElsewhereReachesNothing
  intro s sp index value
  refine ⟨hostReadValue_of_outside s, hostWrite_of_ignored value, fun hrest hrst rest => ⟨fun hout hin => ?_,
    fun hign hin => ?_⟩⟩
  · rw [step_hostRead_of_atRest hrest hrst hin, hostReadValue_of_outside s hout]
  · exact step_of_atRest hrest hrst (takeInput_hostWrite_of_ignored hign hin)

/-! ### Writes of `WBUF` and `PKT` -/

/-- A write of a `WBUF` byte takes the low 8 bits of the value (R70, log entry 9). -/
theorem hostWrite_wbuf {index : Nat} {s : State} (value : Word) (hbusy : s.flags.busy = false)
    (hindex : index < params.bufLen) : hostWrite .wbuf index value s =
      ({ s with wbuf := s.wbuf.write index (value.setWidth 8) }, none) := by
  simp only [hostWrite, hbusy, Bool.false_eq_true, if_false, if_pos hindex]

/-- `PKT` takes the whole value (R24). -/
theorem hostWrite_pkt {s : State} (value : Word) (hbusy : s.flags.busy = false) :
    hostWrite .reg 2 value s = ({ s with pkt := value }, none) := by
  simp [hostWrite, hbusy]

theorem hostReadValue_wbuf {k : Nat} (s : State) (hk : k < params.bufLen) :
    hostReadValue .wbuf k s = (s.wbuf.read k).setWidth 32 := if_pos hk

theorem hostReadValue_wbuf_write_same {index : Nat} {s : State} (v : Byte) (hw : s.wbuf.wf)
    (hindex : index < params.bufLen) :
    hostReadValue .wbuf index { s with wbuf := s.wbuf.write index v } = v.setWidth 32 := by
  rw [hostReadValue_wbuf _ hindex, Memory.read_write_same index v hw]

theorem hostReadValue_wbuf_write_other {index j : Nat} (s : State) (v : Byte) (hj : j ≠ index) :
    hostReadValue .wbuf j { s with wbuf := s.wbuf.write index v } = hostReadValue .wbuf j s := by
  simp only [hostReadValue, Memory.read_write_other s.wbuf v hj]

/-- On a block with no operation, a step whose input is a write that presents no command does what the write does. -/
theorem step_hostWrite_of_idle {sp : Space} {index : Nat} {value : Word} {s t : State} {rest : List Input}
    (ho : t.seq.opr = none) (hrst : t.ports.rst = false) (hin : s.inbox = .hostWrite sp index value :: rest)
    (hwrite : hostWrite sp index value { s with inbox := rest } = (t, none)) : step s = .next t :=
  step_of_idle ((takeInput_cons hin).trans hwrite) hrst ho

/-- Settles O58: the effect of the two writes, and the step of an idle block that takes one. -/
theorem hostWritesReachABufferByteAndThePacket : Obligations.HostWritesReachABufferByteAndThePacket := by
  unfold Obligations.HostWritesReachABufferByteAndThePacket
  intro s value hbusy
  refine ⟨fun index hw hindex => ?_, hostWrite_pkt value hbusy, fun rest ho hrst hin => ?_⟩
  · rw [hostWrite_wbuf value hbusy hindex]
    exact ⟨hostReadValue_wbuf_write_same _ hw hindex, fun j hj => hostReadValue_wbuf_write_other s _ hj, rfl, rfl,
      fun rest ho hrst hin =>
        step_hostWrite_of_idle ho hrst hin (hostWrite_wbuf (s := { s with inbox := rest }) value hbusy hindex)⟩
  · exact step_hostWrite_of_idle ho hrst hin (hostWrite_pkt (s := { s with inbox := rest }) value hbusy)

end Sys2Proof.Machine


/-!
PROOFS. The decoder and the encoder are inverse to each other (spec/30_encoding.md R100 to R105): the fields of an
encoded word are its operands, and a word the decoder accepts is put together again from its fields.
-/
namespace Sys2Proof

/-! ### The fields of an encoded word -/

section
variable (op : BitVec 4) (addr : BusAddr) (hi lo : Byte)

@[simp] theorem opField_encodeN : opField (encodeN op) = op := BitVec.extractLsb'_append_eq_left

@[simp] theorem lowField_encodeN : lowField (encodeN op) = 0 := BitVec.extractLsb'_append_eq_right

@[simp] theorem lowByteField_encodeTW : lowByteField (encodeTW op addr hi lo) = lo :=
  BitVec.extractLsb'_append_eq_right

/-- A field of a format T or W word that lies above the low byte. -/
theorem extractLsb'_encodeTW (start len : Nat) : (encodeTW op addr hi lo).extractLsb' (start + 8) len =
    (op ++ (0 : BitVec 1) ++ addr ++ (0 : BitVec 4) ++ hi).extractLsb' start len :=
  BitVec.extractLsb'_append_eq_of_le (Nat.le_add_left 8 start)

@[simp] theorem highByteField_encodeTW : highByteField (encodeTW op addr hi lo) = hi :=
  (extractLsb'_encodeTW op addr hi lo 0 8).trans BitVec.extractLsb'_append_eq_right

@[simp] theorem bits19Field_encodeTW : bits19Field (encodeTW op addr hi lo) = 0 := by
  refine (extractLsb'_encodeTW op addr hi lo 8 4).trans ?_
  rw [BitVec.extractLsb'_append_eq_of_le (by decide)]
  exact BitVec.extractLsb'_append_eq_right

@[simp] theorem addrField_encodeTW : addrField (encodeTW op addr hi lo) = addr := by
  refine (extractLsb'_encodeTW op addr hi lo 12 7).trans ?_
  rw [BitVec.extractLsb'_append_eq_of_le (by decide), BitVec.extractLsb'_append_eq_of_le (by decide)]
  exact BitVec.extractLsb'_append_eq_right

@[simp] theorem bit27Field_encodeTW : bit27Field (encodeTW op addr hi lo) = 0 := by
  refine (extractLsb'_encodeTW op addr hi lo 19 1).trans ?_
  rw [BitVec.extractLsb'_append_eq_of_le (by decide), BitVec.extractLsb'_append_eq_of_le (by decide),
    BitVec.extractLsb'_append_eq_of_le (by decide)]
  exact BitVec.extractLsb'_append_eq_right

end

/-! ### Decoding an encoded operation -/

/-- No reserved bit of a format T or W word is set, and its three fields are the operands. -/
theorem formatTW_encodeTW (op : BitVec 4) (addr : BusAddr) (hi lo : Byte) (i : BusAddr → Byte → Byte → Instr) :
    formatTW (encodeTW op addr hi lo) i = .ok (i addr hi lo) := by
  simp [formatTW]

theorem decode_of_opField_eq_8 {w : Word} (h : opField w = 8) : decode w = formatTW w .busXact := by
  simp [decode, h]

theorem decode_of_opField_eq_9 {w : Word} (h : opField w = 9) : decode w = formatTW w .regWrite := by
  simp [decode, h]

/-- Settles O1: a format N word is closed; a format T or W word has its row's opcode and its operands in the fields. -/
theorem encodedInstructionDecodesToItself : Obligations.EncodedInstructionDecodesToItself := by
  unfold Obligations.EncodedInstructionDecodesToItself
  intro i
  cases i with
  | busXact addr wlen rlen =>
    exact (decode_of_opField_eq_8 (Laws.opField_encodeTW 8 addr wlen rlen)).trans (formatTW_encodeTW 8 addr wlen rlen _)
  | regWrite addr reg val =>
    exact (decode_of_opField_eq_9 (Laws.opField_encodeTW 9 addr reg val)).trans (formatTW_encodeTW 9 addr reg val _)
  | _ => rfl

/-! ### Encoding a decoded word -/

/-- The fields of format N are all of the word (R102). -/
theorem encodeN_opField {w : Word} (h : lowField w = 0) : encodeN (opField w) = w := by
  have hall : opField w ++ lowField w = w :=
    (BitVec.extractLsb'_append_extractLsb'_eq_extractLsb' rfl).trans BitVec.extractLsb'_eq_self
  rw [encodeN, ← h, hall]

/-- The fields of formats T and W are all of the word (R103, R104). -/
theorem encodeTW_fields {w : Word} (h27 : bit27Field w = 0) (h19 : bits19Field w = 0) :
    encodeTW (opField w) (addrField w) (highByteField w) (lowByteField w) = w := by
  have hall : opField w ++ bit27Field w ++ addrField w ++ bits19Field w ++ highByteField w ++ lowByteField w = w := by
    unfold opField bit27Field addrField bits19Field highByteField lowByteField
    iterate 5 rw [BitVec.extractLsb'_append_extractLsb'_eq_extractLsb']
    · exact BitVec.extractLsb'_eq_self
    all_goals rfl
  rw [encodeTW, ← h27, ← h19, hall]

/-- A word accepted in a row of format N is that row's word. -/
theorem encode_of_formatN {w : Word} {n : Nat} {i j : Instr} (hrow : encode j = encodeN (BitVec.ofNat 4 n))
    (hop : (opField w).toNat = n) (h : formatN w j = .ok i) : encode i = w := by
  unfold formatN at h
  split at h
  · rename_i hlow
    cases h
    rw [hrow, ← hop, BitVec.ofNat_toNat, BitVec.setWidth_eq, encodeN_opField hlow]
  · cases h

/-- A word accepted in a row of format T or W is that row's word with the operands it answers. -/
theorem encode_of_formatTW {w : Word} {n : Nat} {i : Instr} {j : BusAddr → Byte → Byte → Instr}
    (hrow : ∀ addr hi lo, encode (j addr hi lo) = encodeTW (BitVec.ofNat 4 n) addr hi lo)
    (hop : (opField w).toNat = n) (h : formatTW w j = .ok i) : encode i = w := by
  unfold formatTW at h
  split at h
  · rename_i hres
    obtain ⟨h27, h19⟩ := hres
    cases h
    rw [hrow, ← hop, BitVec.ofNat_toNat, BitVec.setWidth_eq, encodeTW_fields h27 h19]
  · cases h

/-- Settles O2, row by row of the opcode table. -/
theorem decodedWordIsTheEncodingOfItsInstruction : Obligations.DecodedWordIsTheEncodingOfItsInstruction := by
  unfold Obligations.DecodedWordIsTheEncodingOfItsInstruction
  intro w i h
  unfold decode at h
  split at h
  case h_8 hop | h_9 hop => exact encode_of_formatTW (fun _ _ _ => rfl) hop h
  case h_10 => cases h
  all_goals
    rename_i hop
    exact encode_of_formatN rfl hop h

/-- Settles O3: ten closed evaluations of the decoder. -/
theorem writtenOutWordsDecode : Obligations.WrittenOutWordsDecode := by
  unfold Obligations.WrittenOutWordsDecode
  exact ⟨rfl, rfl, rfl, rfl, rfl, rfl, rfl, rfl, rfl, rfl⟩

/-! ### Reserved opcodes and reserved bits -/

/-- A word with a reserved opcode, or with a reserved bit set of the format of its row (R110, R111). -/
def Reserved (w : Word) : Prop :=
  opField w = 0 ∨ 10 ≤ (opField w).toNat ∨ ((opField w).toNat < 8 ∧ lowField w ≠ 0) ∨
    ((bit27Field w ≠ 0 ∨ bits19Field w ≠ 0) ∧ 8 ≤ (opField w).toNat)

/-- No operation is encoded with a reserved opcode or a reserved bit. -/
theorem not_reserved_encode (i : Instr) : ¬ Reserved (encode i) := by
  unfold Reserved
  cases i with
  | busXact addr wlen rlen => simp [encode, Laws.opField_encodeTW]
  | regWrite addr reg val => simp [encode, Laws.opField_encodeTW]
  | _ => decide

/-- A reserved word is refused: one that is accepted is the encoding of an operation. -/
theorem decode_of_reserved {w : Word} (h : Reserved w) : ∃ e, decode w = .error e := by
  cases hd : decode w with
  | error e => exact ⟨e, rfl⟩
  | ok i =>
    rw [← decodedWordIsTheEncodingOfItsInstruction w i hd] at h
    exact absurd h (not_reserved_encode i)

end Sys2Proof

/-!
PROOFS. A command word presented to an idle block: it is run, or refused (spec/30_encoding.md R100, R110 to R113); and
the address byte (R125).
-/
namespace Sys2Proof.Machine

/-! ### The step that takes a command word -/

/-- An idle block takes the word into `CMD` and has it decoded (R30, R100). -/
theorem takeInput_command {s : State} {w : Word} {rest : List Input} (hbusy : s.flags.busy = false)
    (hin : s.inbox = .hostWrite .reg 8 w :: rest) : takeInput s = ({ s with inbox := rest, cmd := w }, some w) := by
  rw [takeInput_cons hin]
  simp [applyInput, hostWrite, hbusy]

/-- Settles O4: the input presents the word, and the step decodes it. -/
theorem stepRunsTheDecodedInstruction : Obligations.StepRunsTheDecodedInstruction := by
  unfold Obligations.StepRunsTheDecodedInstruction
  intro s w rest i hbusy hrst hin hdec
  simp [step, takeInput_command hbusy hin, hrst, hdec]

theorem step_of_undecodable {s : State} {w : Word} {rest : List Input} {e : DecodeError} (hbusy : s.flags.busy = false)
    (hrst : s.ports.rst = false) (hin : s.inbox = .hostWrite .reg 8 w :: rest) (hdec : decode w = .error e) :
    step s = .next (refuseCommand { s with inbox := rest, cmd := w }) := by
  simp [step, takeInput_command hbusy hin, hrst, hdec]

/-! ### Refusal and acceptance of a decoded operation -/

theorem exec_of_illFormed {i : Instr} {s : State} (hbusy : s.flags.busy = false) (hw : i.wellFormed = false) :
    exec i s = .next (refuseCommand s) := by
  rw [exec_eq_runOperation, runOperation_refuse _ _ hbusy hw]

theorem exec_of_accepted {i : Instr} {s : State} (hbusy : s.flags.busy = false) (hw : i.wellFormed = true) :
    exec i s = .next (resumes i (begins i (accept i s))) := by
  rw [exec_eq_runOperation, runOperation_idle _ _ hbusy hw]

theorem wellFormed_busXact_iff (addr : BusAddr) (wlen rlen : Byte) :
    (Instr.busXact addr wlen rlen).wellFormed = true ↔ ¬(wlen = 0 ∧ rlen = 0) := by
  simp [Instr.wellFormed, Decidable.imp_iff_not_or]

/-- A transaction with a byte to write or to read comes to an address phase: a command on the port, no flag of the
block's moved. -/
theorem beginTransaction_issues {addr : BusAddr} {wlen rlen : Byte} (h : ¬(wlen = 0 ∧ rlen = 0)) (s : State) :
    ∃ c t, beginTransaction addr wlen rlen s = port c t ∧ t.flags = s.flags ∧ t.seq.opr = s.seq.opr := by
  unfold beginTransaction
  by_cases hw : wlen = 0
  · have hr : rlen ≠ 0 := fun hr => h ⟨hw, hr⟩
    simp only [hw, if_true, beginRead, hr, if_false]
    exact ⟨_, _, rfl, rfl, rfl⟩
  · simp only [hw, if_false]
    exact ⟨_, _, rfl, rfl, rfl⟩

/-- A port command clears the flags the engine waits for, so it goes no further in this step. -/
theorem busRun_port (o : State → Nat → Byte) (c : BusCmd) (t : State) : busRun o (port c t) = port c t :=
  busRun_waiting o (busWaitOver_of_cleared (.inr ⟨by simp, by simp⟩))

/-- Settles O7: `wellFormed` is the test of R113, and an accepted transaction waits in its first address phase. -/
theorem zeroLengthTransactionIsRefused : Obligations.ZeroLengthTransactionIsRefused := by
  unfold Obligations.ZeroLengthTransactionIsRefused
  intro s addr wlen rlen hbusy
  have hiff := wellFormed_busXact_iff addr wlen rlen
  refine ⟨fun hzero => ?_, fun hlen => ?_⟩
  · exact exec_of_illFormed hbusy (by simpa [hzero] using hiff)
  · obtain ⟨c, t, hbegin, hflags, hopr⟩ :=
      beginTransaction_issues (addr := addr) hlen (accept (.busXact addr wlen rlen) s)
    refine ⟨port c t, ?_, ⟨?_, ?_⟩, ?_⟩
    · rw [exec_of_accepted hbusy (hiff.mpr hlen), begins, hbegin, resumes, busRun_port]
    · simp [hflags]
    · simp [hopr]
    · simp [hflags]

/-- Settles O6: a reserved word does not decode; the word of an empty transaction decodes and is ill-formed. -/
theorem refusedWordsOnlySetCmdErr : Obligations.RefusedWordsOnlySetCmdErr := by
  unfold Obligations.RefusedWordsOnlySetCmdErr
  intro s w rest hbusy hrst hin hword
  have refused_of_reserved (h : Reserved w) :
      step s = .next { s with inbox := rest, cmd := w, flags.cmdErr := true } := by
    obtain ⟨e, hdec⟩ := decode_of_reserved h
    exact step_of_undecodable hbusy hrst hin hdec
  rcases hword with h0 | h10 | hlow | hbits | ⟨addr, rfl⟩
  · exact refused_of_reserved (.inl h0)
  · exact refused_of_reserved (.inr (.inl h10))
  · exact refused_of_reserved (.inr (.inr (.inl hlow)))
  · exact refused_of_reserved (.inr (.inr (.inr hbits)))
  · rw [stepRunsTheDecodedInstruction s _ rest _ hbusy hrst hin (encodedInstructionDecodesToItself _)]
    exact exec_of_illFormed hbusy rfl

/-! ### The address byte -/

/-- Settles O42: the address is the high part of a concatenation whose low part is the direction bit. -/
theorem addressByteCarriesAddressAndDirection : Obligations.AddressByteCarriesAddressAndDirection := by
  unfold Obligations.AddressByteCarriesAddressAndDirection
  intro addr read
  unfold addressByte
  rw [append_toNat, BitVec.toNat_ofBool, Nat.mul_comm]
  cases read <;> rfl

end Sys2Proof.Machine

/-!
PROOFS. The Tick Clock and the Sample Source (spec/40_tick_sample.md R140 to R142) and what the bus engine leaves alone
of them (spec/10_state.md R65, spec/45_bus_engine.md R234): no bus operation comes near the receiver, a receiver
operation consumes at most one tick a step, and WAIT_TICK and SAMPLE end at the one wait they have.
-/
namespace Sys2Proof.Machine

/-! ### The bus engine stays outside the receiver -/

section
variable {s t u : State}

theorem sameOutsideBus_refl (s : State) : SameOutsideBus s s :=
  ⟨rfl, rfl, rfl, rfl, rfl, rfl, rfl, rfl, rfl, rfl, rfl, rfl, rfl, rfl⟩

theorem SameOutsideBus.trans (h₁ : SameOutsideBus s t) (h₂ : SameOutsideBus t u) : SameOutsideBus s u := by
  obtain ⟨hrx, hres, hpkt, hcfg, hcmd, hwbuf, hval, htov, hdone, hdata, hrst, hin, hclr, hstart⟩ := h₂
  unfold SameOutsideBus
  rwa [hrx, hres, hpkt, hcfg, hcmd, hwbuf, hval, htov, hdone, hdata, hrst, hin, hclr, hstart]

/-- A port command is seen on the Bus port alone (R65). -/
theorem SameOutsideBus.port (c : BusCmd) (h : SameOutsideBus s t) : SameOutsideBus s (port c t) :=
  h.trans ⟨rfl, rfl, rfl, rfl, rfl, rfl, rfl, rfl, rfl, rfl, rfl, rfl, by simp, by simp⟩

/-- Ending a transaction moves the sequencing state, `BUSY` and `BUS_OK`, none of which is the receiver's. -/
theorem SameOutsideBus.finishBus (ok : Bool) (h : SameOutsideBus s t) : SameOutsideBus s (finishBus ok t) := h

theorem SameOutsideBus.stopPhase (h : SameOutsideBus s t) : SameOutsideBus s (stopPhase t) :=
  .finishBus _ (.port .pStop h)

theorem SameOutsideBus.beginRead (h : SameOutsideBus s t) : SameOutsideBus s (beginRead t) := by
  unfold Machine.beginRead
  split
  · exact .stopPhase h
  · exact .port _ h

theorem sameOutsideBus_beginTransaction (addr : BusAddr) (wlen rlen : Byte) (s : State) :
    SameOutsideBus s (beginTransaction addr wlen rlen s) := by
  unfold beginTransaction
  dsimp only
  split
  · exact .beginRead (sameOutsideBus_refl s)
  · exact .port _ (sameOutsideBus_refl s)

theorem sameOutsideBus_afterWriteAddress (o : State → Nat → Byte) (s : State) :
    SameOutsideBus s (afterWriteAddress o s) := by
  unfold afterWriteAddress
  split
  · exact .finishBus _ (.port _ (sameOutsideBus_refl s))
  · exact .port _ (sameOutsideBus_refl s)

theorem sameOutsideBus_afterWriteByte (o : State → Nat → Byte) (s : State) :
    SameOutsideBus s (afterWriteByte o s) := by
  unfold afterWriteByte
  split
  · exact .finishBus _ (.port _ (sameOutsideBus_refl s))
  · split
    · exact .port _ (sameOutsideBus_refl s)
    · exact .beginRead (sameOutsideBus_refl s)

theorem sameOutsideBus_afterReadAddress (s : State) : SameOutsideBus s (afterReadAddress s) := by
  unfold afterReadAddress
  split
  · exact .stopPhase (.port _ (sameOutsideBus_refl s))
  · exact sameOutsideBus_refl s

theorem sameOutsideBus_afterReadByte (s : State) : SameOutsideBus s (afterReadByte s) := by
  unfold afterReadByte
  dsimp only
  split
  · exact .port _ (sameOutsideBus_refl s)
  · exact .stopPhase (.port _ (sameOutsideBus_refl s))

theorem sameOutsideBus_busAdvance (o : State → Nat → Byte) (s : State) : SameOutsideBus s (busAdvance o s) := by
  rcases busAdvance_cases o s with ⟨-, h⟩ | ⟨-, -, h⟩ | ⟨-, -, h⟩ | ⟨-, -, h⟩ | ⟨-, -, h⟩ <;> rw [h]
  · exact sameOutsideBus_refl s
  · exact sameOutsideBus_afterWriteAddress o s
  · exact sameOutsideBus_afterWriteByte o s
  · exact sameOutsideBus_afterReadAddress s
  · exact sameOutsideBus_afterReadByte s

theorem sameOutsideBus_busRun (o : State → Nat → Byte) (s : State) : SameOutsideBus s (busRun o s) :=
  (sameOutsideBus_busAdvance o s).trans (sameOutsideBus_busAdvance o _)

theorem sameOutsideBus_begins {i : Instr} (hi : i.isReceiver = false) (s : State) : SameOutsideBus s (begins i s) := by
  cases i with
  | busXact addr wlen rlen => exact sameOutsideBus_beginTransaction addr wlen rlen s
  | regWrite addr reg val => exact sameOutsideBus_beginTransaction addr 2 0 s
  | _ => cases hi

theorem sameOutsideBus_resumes {i : Instr} (hi : i.isReceiver = false) (s : State) :
    SameOutsideBus s (resumes i s) := by
  cases i with
  | busXact addr wlen rlen => exact sameOutsideBus_busRun _ s
  | regWrite addr reg val => exact sameOutsideBus_busRun _ s
  | _ => cases hi

end

/-- Settles O55, along everything `runOperation` can do: neither the beginning of a transaction nor its going on comes
near the receiver, and accepting or refusing a command moves flags that are not the receiver's. -/
theorem busEngineNeverTouchesTheReceiver : Obligations.BusEngineNeverTouchesTheReceiver := by
  unfold Obligations.BusEngineNeverTouchesTheReceiver
  intro i s t hi he
  rw [exec_eq_runOperation, Host.Outcome.next.injEq] at he
  subst he
  rcases runOperation_cases i (begins i) (resumes i) s with ⟨-, -, h⟩ | ⟨-, -, h⟩ | ⟨-, h⟩ | ⟨-, -, h⟩ <;> rw [h]
  · have haccept : SameOutsideBus s (accept i s) := sameOutsideBus_refl s
    exact haccept.trans ((sameOutsideBus_begins hi _).trans (sameOutsideBus_resumes hi _))
  · exact sameOutsideBus_refl s
  · exact sameOutsideBus_resumes hi s
  · exact sameOutsideBus_refl s

/-! ### Consumed ticks are counted -/

/-- From `s` to `t` the clock has stood still: `TICK` and `TOV` are as they were and no `tov_clr` pulse has come. -/
def TickKept (s t : State) : Prop :=
  t.rx.tick = s.rx.tick ∧ t.ports.tov = s.ports.tov ∧ t.trace.count .tovClr = s.trace.count .tovClr

/-- From `s` to `t` one pending overflow has been consumed: counted, cleared, and shown by one `tov_clr` pulse (R140). -/
def TickConsumed (s t : State) : Prop :=
  t.rx.tick = s.rx.tick + 1 ∧ s.ports.tov = true ∧ t.ports.tov = false ∧
  t.trace.count .tovClr = s.trace.count .tovClr + 1

/-- From `s` to `t` at most one overflow has been consumed. -/
def AtMostOneTick (s t : State) : Prop := TickKept s t ∨ TickConsumed s t

section
variable {s t u : State}

theorem tickKept_refl (s : State) : TickKept s s := ⟨rfl, rfl, rfl⟩

theorem TickKept.trans (h₁ : TickKept s t) (h₂ : TickKept t u) : TickKept s u := by
  obtain ⟨htick, htov, hclr⟩ := h₂
  unfold TickKept
  rwa [htick, htov, hclr]

theorem TickKept.trans_consumed (h₁ : TickKept s t) (h₂ : TickConsumed t u) : TickConsumed s u := by
  obtain ⟨htick, htov, hclr⟩ := h₁
  unfold TickConsumed
  rwa [← htick, ← htov, ← hclr]

theorem TickConsumed.trans_kept (h₁ : TickConsumed s t) (h₂ : TickKept t u) : TickConsumed s u := by
  obtain ⟨htick, htov, hclr⟩ := h₂
  unfold TickConsumed
  rwa [htick, htov, hclr]

/-- There is never a second one: the first leaves `TOV` down. -/
theorem AtMostOneTick.trans (h₁ : AtMostOneTick s t) (h₂ : AtMostOneTick t u) : AtMostOneTick s u := by
  rcases h₁ with h₁ | h₁ <;> rcases h₂ with h₂ | h₂
  · exact .inl (h₁.trans h₂)
  · exact .inr (h₁.trans_consumed h₂)
  · exact .inr (h₁.trans_kept h₂)
  · obtain ⟨-, -, hdown, -⟩ := h₁
    obtain ⟨-, hup, -⟩ := h₂
    simp [hdown] at hup

theorem SameOutsideBus.tickKept (h : SameOutsideBus s t) : TickKept s t := by
  obtain ⟨hrx, -, -, -, -, -, -, htov, -, -, -, -, hclr, -⟩ := h
  exact ⟨congrArg Receiver.tick hrx, htov, hclr⟩

theorem tickConsumed_consumeTick (h : s.ports.tov = true) : TickConsumed s (consumeTick s) :=
  ⟨rfl, h, rfl, by simp⟩

theorem tickKept_startConversion (s : State) : TickKept s (startConversion s) := ⟨rfl, rfl, by simp⟩

/-! The detector and the loops over it time their edges by `TICK` and never move it. -/

theorem detect_tick (x : Sample) (r : Receiver) : (detect x r).1.tick = r.tick := by
  have hcount := (countSample_frame (foldSample x r)).1
  rcases detect_cases x r with ⟨-, h⟩ | ⟨-, h⟩ <;> rw [h] <;> exact hcount

theorem tickKept_edgeIteration (x : Sample) (s : State) : TickKept s (edgeIteration x s).1 :=
  ⟨detect_tick x s.rx, rfl, rfl⟩

theorem tickKept_periodIteration (x : Sample) (s : State) : TickKept s (periodIteration x s).1 := by
  have hcount := (countSample_frame (foldSample x s.rx)).1
  rcases periodIteration_cases x s with ⟨-, h⟩ | ⟨-, -, h⟩ | ⟨-, -, h⟩ <;> rw [h] <;> exact ⟨hcount, rfl, rfl⟩

theorem tickKept_packetIteration (x : Sample) (s : State) : TickKept s (packetIteration x s).1 := by
  have hperiod := tickKept_periodIteration x s
  rcases packetIteration_cases x s with ⟨-, h⟩ | ⟨m, r, -, rfl, ⟨p, -, h⟩ | ⟨-, h⟩⟩ <;> rw [h] <;> exact hperiod

theorem tickKept_decodePacket (s : State) : TickKept s (decodePacket s) := by
  rcases decodePacket_cases s with ⟨c, -, h⟩ | ⟨-, h⟩ <;> rw [h] <;> exact tickKept_refl s

theorem tickKept_nextEdgeReading (x : Sample) (s : State) : TickKept s (nextEdgeReading x s) := by
  have hedge := tickKept_edgeIteration x s
  unfold nextEdgeReading
  split <;> rename_i h <;> rw [h] at hedge <;> exact hedge

theorem tickKept_fullPeriodReading (x : Sample) (s : State) : TickKept s (fullPeriodReading x s) := by
  have hperiod := tickKept_periodIteration x s
  unfold fullPeriodReading
  split <;> rename_i h <;> rw [h] at hperiod <;> exact hperiod

theorem tickKept_readPacketReading (x : Sample) (s : State) : TickKept s (readPacketReading x s) := by
  have hpacket := tickKept_packetIteration x s
  unfold readPacketReading
  split <;> rename_i h <;> rw [h] at hpacket <;> exact hpacket

theorem tickKept_decodeConfigReading (x : Sample) (s : State) : TickKept s (decodeConfigReading x s) := by
  have hpacket := tickKept_packetIteration x s
  unfold decodeConfigReading
  split <;> rename_i t _ h <;> rw [h] at hpacket
  · exact hpacket
  · have hdecode := hpacket.trans (tickKept_decodePacket t)
    split <;> exact hdecode

end

section
variable {f : State → State} {g : Sample → State → State}
  (hf : ∀ s, TickKept s (f s)) (hg : ∀ x s, TickKept s (g x s))
include hf hg

/-- Between two waits the clock stands still, so the receiver's advance counts the tick it waited for and no other. -/
theorem atMostOneTick_rxAdvance (s : State) : AtMostOneTick s (rxAdvance f g s) := by
  rcases rxAdvance_cases f g s with ⟨-, h⟩ | ⟨-, htov, h⟩ | ⟨-, -, h⟩ <;> rw [h]
  · exact .inl (tickKept_refl s)
  · exact .inr ((tickConsumed_consumeTick htov).trans_kept (hf _))
  · exact .inl (hg _ (takeReading s))

theorem atMostOneTick_rxRun (s : State) : AtMostOneTick s (rxRun f g s) :=
  (atMostOneTick_rxAdvance hf hg s).trans (atMostOneTick_rxAdvance hf hg _)

end

/-- No operation consumes a tick before its first wait. -/
theorem tickKept_begins (i : Instr) (s : State) : TickKept s (begins i s) := by
  cases i with
  | sample => exact tickKept_startConversion s
  | decode => exact tickKept_decodePacket s
  | busXact addr wlen rlen => exact (sameOutsideBus_beginTransaction addr wlen rlen s).tickKept
  | regWrite addr reg val => exact (sameOutsideBus_beginTransaction addr 2 0 s).tickKept
  | _ => exact tickKept_refl s

theorem atMostOneTick_resumes (i : Instr) (s : State) : AtMostOneTick s (resumes i s) := by
  cases i with
  | waitTick => exact atMostOneTick_rxRun (f := finish) tickKept_refl (fun _ => tickKept_refl) s
  | sample => exact atMostOneTick_rxRun (g := returnSample) tickKept_refl (fun _ => tickKept_refl) s
  | nextEdge => exact atMostOneTick_rxRun tickKept_startConversion tickKept_nextEdgeReading s
  | fullPeriod => exact atMostOneTick_rxRun tickKept_startConversion tickKept_fullPeriodReading s
  | readPacket => exact atMostOneTick_rxRun tickKept_startConversion tickKept_readPacketReading s
  | decode => exact .inl (tickKept_refl s)
  | decodeConfig => exact atMostOneTick_rxRun tickKept_startConversion tickKept_decodeConfigReading s
  | busXact addr wlen rlen => exact .inl (sameOutsideBus_busRun _ s).tickKept
  | regWrite addr reg val => exact .inl (sameOutsideBus_busRun _ s).tickKept

theorem exec_atMostOneTick {i : Instr} {s t : State} (h : exec i s = .next t) : AtMostOneTick s t := by
  rw [exec_eq_runOperation, Host.Outcome.next.injEq] at h
  subst h
  rcases runOperation_cases i (begins i) (resumes i) s with ⟨-, -, h⟩ | ⟨-, -, h⟩ | ⟨-, h⟩ | ⟨-, -, h⟩ <;> rw [h]
  · have hbegin : TickKept s (begins i (accept i s)) := tickKept_begins i (accept i s)
    exact .trans (.inl hbegin) (atMostOneTick_resumes i _)
  · exact .inl (tickKept_refl s)
  · exact atMostOneTick_resumes i s
  · exact .inl (tickKept_refl s)

/-- Only a receiver operation clears `TOV`, so only one of those consumes a tick (R141, R319). -/
theorem isReceiver_of_tickConsumed {i : Instr} {s t : State} (he : exec i s = .next t) (h : TickConsumed s t) :
    i.isReceiver = true := by
  obtain ⟨-, hup, hdown, -⟩ := h
  by_contra hi
  have hkept := (busEngineNeverTouchesTheReceiver i s t (by simpa using hi) he).tickKept
  obtain ⟨-, htov, -⟩ := hkept
  simp [hup, hdown] at htov

/-- No input moves the receiver. -/
theorem takeInput_rx (s : State) : (takeInput s).1.rx = s.rx := by
  rcases takeInput_cases s with ⟨p, l, tr, h⟩ | ⟨-, v, l, h⟩ | ⟨-, ix, v, l, -, h⟩ | ⟨-, w, l, -, h⟩ <;> rw [h]

/-- Settles O18, along what a step can do (`step_cases`): only an operation consumes a tick, at most one, and it is then
a receiver's, commanded in this step or in progress before it. -/
theorem tickCountsConsumedOverflows : Obligations.TickCountsConsumedOverflows := by
  unfold Obligations.TickCountsConsumedOverflows
  intro s t hstep hrst
  rw [← takeInput_rx s]
  rcases step_cases hstep with ⟨hr, -⟩ | ⟨-, ⟨i, he, hwhich⟩ | ⟨rfl, -⟩ | ⟨rfl, -⟩⟩
  · simp [hrst] at hr
  · rcases exec_atMostOneTick he with ⟨htick, -, hclr⟩ | hconsumed
    · exact .inl ⟨htick, hclr⟩
    · have hi := isReceiver_of_tickConsumed he hconsumed
      obtain ⟨htick, hup, hdown, hclr⟩ := hconsumed
      refine .inr ⟨htick, hup, hdown, hclr, i, hi, ?_⟩
      rcases hwhich with hcommand | ⟨-, hopr⟩
      · exact .inr hcommand
      · exact .inl ((takeInput_busy_opr s).2.symm.trans hopr)
  · exact .inl ⟨rfl, rfl⟩
  · exact .inl ⟨rfl, rfl⟩

/-! ### WAIT_TICK and SAMPLE -/

/-- A command accepted into a wait that is not over is suspended there. -/
theorem exec_suspends {i : Instr} {s : State} (hbusy : s.flags.busy = false) (hw : i.wellFormed = true)
    (ho : (begins i (accept i s)).seq.opr = some i) (hwait : waitOver (begins i (accept i s)) = false) :
    exec i s = .next (begins i (accept i s)) := by
  rw [exec_of_accepted hbusy hw, resumes_waiting ho hwait]

/-- The tick ends WAIT_TICK, and no wait comes after it (R140). -/
theorem resumes_waitTick {s : State} (hr : s.seq.rxState = .waitTick) (ht : s.ports.tov = true) :
    resumes .waitTick s = finish (consumeTick s) := by
  rw [resumes, rxRun_tick _ _ hr ht, rxAdvance_waiting _ _ rfl]

/-- The reading ends SAMPLE, and no wait comes after it (R142). -/
theorem resumes_sample {s : State} (hr : s.seq.rxState = .waitAdc) (ha : s.ports.adcDone = true) :
    resumes .sample s = returnSample s.ports.adcData (takeReading s) := by
  rw [resumes, rxRun_reading _ _ hr ha, rxAdvance_waiting _ _ rfl]

/-- Settles O16: WAIT_TICK comes to its wait or is at it already, and `TOV` is down or up there. -/
theorem waitTickWaitsForTovAndCountsIt : Obligations.WaitTickWaitsForTovAndCountsIt := by
  unfold Obligations.WaitTickWaitsForTovAndCountsIt
  intro s
  refine ⟨fun hbusy ht => ?_, fun hrun hr ht => ?_, fun hbusy ht => ?_, fun hrun hr ht => ?_⟩
  · exact exec_suspends hbusy rfl rfl ht
  · have hwait : waitOver s = false := by simp [waitOver_of_opr hrun.2, Instr.isReceiver, rxWaitOver, hr, ht]
    exact awaitTakesNoStepBeforeItsCondition _ s hrun hwait
  · rw [exec_of_accepted hbusy rfl, resumes_waitTick (s := begins .waitTick (accept .waitTick s)) rfl ht]
    rfl
  · rw [exec_of_running hrun, resumes_waitTick hr ht]
    rfl

/-- Settles O17: SAMPLE comes to its wait or is at it already, and `ADC_DONE` is down or up there. -/
theorem sampleReturnsTheReading : Obligations.SampleReturnsTheReading := by
  unfold Obligations.SampleReturnsTheReading
  intro s
  refine ⟨fun hbusy ha => ?_, fun hrun hr ha => ?_, fun hrun hr ha => ?_, fun hbusy ha => ?_⟩
  · exact exec_suspends hbusy rfl rfl ha
  · have hwait : waitOver s = false := by simp [waitOver_of_opr hrun.2, Instr.isReceiver, rxWaitOver, hr, ha]
    exact awaitTakesNoStepBeforeItsCondition _ s hrun hwait
  · rw [exec_of_running hrun, resumes_sample hr ha]
    rfl
  · rw [exec_of_accepted hbusy rfl, resumes_sample (s := begins .sample (accept .sample s)) rfl ha]
    rfl

end Sys2Proof.Machine

/-!
PROOFS. The Adaptive Level Detector (spec/41_level_detector.md R150 to R158): the calibration window, the four
operations that run NEXT_EDGE as one loop over ticks and readings (`RunsNextEdge`, `edgeReading`), what a reading makes
of the level, and NEXT_EDGE run over a list of samples.
-/
namespace Sys2Proof.Machine

/-! ### The calibration window -/

/-- `q` holds the samples folded into the window of `r`: its minimum and maximum are among them, or are those of `r`,
and bound all of these (R151). -/
structure FoldedFrom (r : Receiver) (smps : List Sample) (q : Receiver) : Prop where
  calMin_eq_or_mem : q.calMin = r.calMin ∨ q.calMin ∈ smps
  calMax_eq_or_mem : q.calMax = r.calMax ∨ q.calMax ∈ smps
  calMin_le : q.calMin ≤ r.calMin
  le_calMax : r.calMax ≤ q.calMax
  bounds : ∀ x ∈ smps, q.calMin ≤ x ∧ x ≤ q.calMax

theorem foldedFrom_nil (r : Receiver) : FoldedFrom r [] r :=
  ⟨.inl rfl, .inl rfl, BitVec.le_refl _, BitVec.le_refl _, by simp⟩

/-- Each of the two comparisons keeps the old bound or takes the sample. -/
theorem foldedFrom_foldSample (x : Sample) (r : Receiver) : FoldedFrom r [x] (foldSample x r) := by
  constructor <;> simp only [foldSample_calMin, foldSample_calMax, List.mem_singleton, forall_eq] <;> grind

theorem FoldedFrom.trans {r q p : Receiver} {xs ys : List Sample} (h₁ : FoldedFrom r xs q) (h₂ : FoldedFrom q ys p) :
    FoldedFrom r (xs ++ ys) p where
  calMin_eq_or_mem := by have := h₁.calMin_eq_or_mem; have := h₂.calMin_eq_or_mem; grind
  calMax_eq_or_mem := by have := h₁.calMax_eq_or_mem; have := h₂.calMax_eq_or_mem; grind
  calMin_le := BitVec.le_trans h₂.calMin_le h₁.calMin_le
  le_calMax := BitVec.le_trans h₁.le_calMax h₂.le_calMax
  bounds x hx := by
    rcases List.mem_append.mp hx with hx | hx
    · obtain ⟨hmin, hmax⟩ := h₁.bounds x hx
      exact ⟨BitVec.le_trans h₂.calMin_le hmin, BitVec.le_trans hmax h₂.le_calMax⟩
    · exact h₂.bounds x hx

theorem foldedFrom_foldl (r : Receiver) (smps : List Sample) :
    FoldedFrom r smps (smps.foldl (fun acc x => foldSample x acc) r) := by
  induction smps generalizing r with
  | nil => exact foldedFrom_nil r
  | cons x xs ih => exact (foldedFrom_foldSample x r).trans (ih (foldSample x r))

/-- Settles O22: a bound that stands at its sentinel after a sample has met it, so the sample is that bound itself. -/
theorem foldedWindowHoldsMinimumAndMaximum : Obligations.FoldedWindowHoldsMinimumAndMaximum := by
  unfold Obligations.FoldedWindowHoldsMinimumAndMaximum
  intro r smps hmin hmax hne
  obtain ⟨hminMem, hmaxMem, -, -, hbounds⟩ := foldedFrom_foldl r smps
  dsimp only
  generalize smps.foldl (fun acc x => foldSample x acc) r = q at *
  obtain ⟨x, hx⟩ := List.exists_mem_of_ne_nil smps hne
  obtain ⟨hle, hge⟩ := hbounds x hx
  refine ⟨hminMem.elim (fun h => ?_) id, hmaxMem.elim (fun h => ?_) id, hbounds⟩
  · have hx' : q.calMin = x := by rw [h, hmin] at hle ⊢; bv_omega
    rwa [hx']
  · have hx' : q.calMax = x := by rw [h, hmax] at hge ⊢; bv_omega
    rwa [hx']

/-- A percentage of the range stays inside the range. -/
theorem percentAbove_le (base span : Nat) {pct : Nat} (h : pct ≤ 100) : percentAbove base span pct ≤ base + span := by
  have hspan : pct * span ≤ 100 * span := Nat.mul_le_mul_right span h
  unfold percentAbove
  omega

/-- A threshold inside a window fits its 10 bits. -/
theorem threshold_toNat {lo hi : Sample} {pct : Nat} (hle : lo ≤ hi) (h : pct ≤ 100) :
    (BitVec.ofNat 10 (percentAbove lo.toNat (hi.toNat - lo.toNat) pct)).toNat =
      percentAbove lo.toNat (hi.toNat - lo.toNat) pct := by
  have hin := percentAbove_le lo.toNat (hi.toNat - lo.toNat) h
  rw [BitVec.le_def] at hle
  rw [BitVec.toNat_ofNat]
  omega

/-- Settles O23: a percentage of the range stays inside the range, and 30 percent is at most 70. -/
theorem windowEndSetsThresholdsInsideTheWindow : Obligations.WindowEndSetsThresholdsInsideTheWindow := by
  unfold Obligations.WindowEndSetsThresholdsInsideTheWindow
  intro r hle hpos q
  have hend : q = endWindow r := by simp [q, countSample, hpos]
  have hp2p : q.calP2p.toNat = r.calMax.toNat - r.calMin.toNat := by
    rw [hend, endWindow_calP2p, BitVec.toNat_ofNat]
    omega
  have hlow : q.thrLow.toNat = r.calMin.toNat + 30 * (r.calMax.toNat - r.calMin.toNat) / 100 := by
    rw [hend, endWindow_thrLow, threshold_toNat hle (by decide)]
    rfl
  have hhigh : q.thrHigh.toNat = r.calMin.toNat + 70 * (r.calMax.toNat - r.calMin.toNat) / 100 := by
    rw [hend, endWindow_thrHigh, threshold_toNat hle (by decide)]
    rfl
  rw [BitVec.le_def] at hle
  simp only [BitVec.le_def, hlow, hhigh, true_and]
  refine ⟨hp2p, by omega, by omega, by omega, ?_⟩
  rw [hend]
  exact ⟨rfl, rfl, rfl⟩

/-! ### The operations that run NEXT_EDGE -/

/-- The operations that loop over NEXT_EDGE's iterations (R150, R170, R175, R206). -/
def RunsNextEdge (i : Instr) : Prop := i = .nextEdge ∨ i = .fullPeriod ∨ i = .readPacket ∨ i = .decodeConfig

/-- What an operation over NEXT_EDGE makes of a reading; the other operations have none. -/
def edgeReading : Instr → Sample → State → State
  | .nextEdge => nextEdgeReading
  | .fullPeriod => fullPeriodReading
  | .readPacket => readPacketReading
  | .decodeConfig => decodeConfigReading
  | _ => fun _ s => s

section
variable {i : Instr} {s : State}

theorem RunsNextEdge.wellFormed (hi : RunsNextEdge i) : i.wellFormed = true := by
  rcases hi with rfl | rfl | rfl | rfl <;> rfl

theorem RunsNextEdge.begins_eq (hi : RunsNextEdge i) (s : State) :
    begins i s = { s with
      seq.rxState := .waitTick, seq.edgeNo := if i = .nextEdge then s.seq.edgeNo else 0 } := by
  rcases hi with rfl | rfl | rfl | rfl <;> rfl

theorem RunsNextEdge.resumes_eq (hi : RunsNextEdge i) : resumes i = rxRun startConversion (edgeReading i) := by
  rcases hi with rfl | rfl | rfl | rfl <;> rfl

theorem rxContinuation_edgeReading (i : Instr) (x : Sample) : RxContinuation (edgeReading i x) := by
  cases i with
  | nextEdge => exact rxContinuation_nextEdgeReading x
  | fullPeriod => exact rxContinuation_fullPeriodReading x
  | readPacket => exact rxContinuation_readPacketReading x
  | decodeConfig => exact rxContinuation_decodeConfigReading x
  | _ => exact rxContinuation_id

theorem RunsNextEdge.waitOver (hi : RunsNextEdge i) (ho : s.seq.opr = some i) : waitOver s = rxWaitOver s := by
  rw [waitOver_of_opr ho]
  rcases hi with rfl | rfl | rfl | rfl <;> rfl

/-! ### A tick, then a conversion -/

/-- After its tick a loop goes on as from the wait for the conversion: a second advance would find both flags down. -/
theorem RunsNextEdge.resumes_tick (hi : RunsNextEdge i) (hr : s.seq.rxState = .waitTick) (ht : s.ports.tov = true) :
    resumes i s = resumes i (tickTaken s) := by
  have hwait : rxWaitOver (rxAdvance startConversion (edgeReading i) (tickTaken s)) = false :=
    rxWaitOver_rxAdvance rxContinuation_startConversion (rxContinuation_edgeReading i) (.inl rfl)
  have htaken : startConversion (consumeTick s) = tickTaken s := by
    simp [tickTaken, startConversion, consumeTick, emit]
  rw [hi.resumes_eq, rxRun_tick _ _ hr ht, htaken, rxRun, rxAdvance_waiting _ _ hwait]

theorem RunsNextEdge.resumes_tickTaken (hi : RunsNextEdge i) (ha : s.ports.adcDone = false) :
    resumes i (tickTaken s) = tickTaken s := by
  rw [hi.resumes_eq, rxRun_waiting _ _ (by simp [rxWaitOver, tickTaken, ha])]

theorem exec_of_tick (hi : RunsNextEdge i) (hrun : Running i s) (hr : s.seq.rxState = .waitTick)
    (ht : s.ports.tov = true) : exec i s = exec i (tickTaken s) := by
  rw [exec_of_running hrun, exec_of_running (s := tickTaken s) hrun, hi.resumes_tick hr ht]

theorem exec_tickTaken (hi : RunsNextEdge i) (hrun : Running i s) (ha : s.ports.adcDone = false) :
    exec i (tickTaken s) = .next (tickTaken s) := by
  rw [exec_of_running (s := tickTaken s) hrun, hi.resumes_tickTaken ha]

end

/-- Settles O19: an accepted command goes on as the operation suspended at its wait for a tick, and from there the tick
is taken. -/
theorem receiverLoopsTakeATickThenAConversion : Obligations.ReceiverLoopsTakeATickThenAConversion := by
  unfold Obligations.ReceiverLoopsTakeATickThenAConversion
  intro i s hloop started
  have hi : RunsNextEdge i := hloop
  have hstart : begins i (accept i s) = started := hi.begins_eq (accept i s)
  have hrun : Running i started := ⟨rfl, rfl⟩
  refine ⟨fun hbusy => ?_, fun hrun hr ht => ⟨fun ha => ?_, fun _ => exec_of_tick hi hrun hr ht⟩⟩
  · have hexec : exec i s = exec i started := by
      rw [exec_of_accepted hbusy hi.wellFormed, hstart, exec_of_running hrun]
    rw [hexec]
    refine ⟨fun ht => ?_, fun ht ha => ?_, fun ht _ => exec_of_tick hi hrun rfl ht⟩
    · exact awaitTakesNoStepBeforeItsCondition i started hrun ((hi.waitOver hrun.2).trans ht)
    · rw [exec_of_tick hi hrun rfl ht, exec_tickTaken hi hrun ha]
  · rw [exec_of_tick hi hrun hr ht, exec_tickTaken hi hrun ha]

/-! ### A reading with a crossing, and one without -/

section
variable {i : Instr} {x : Sample} {s : State}

theorem RunsNextEdge.resumes_reading (hi : RunsNextEdge i) (hr : s.seq.rxState = .waitAdc)
    (ha : s.ports.adcDone = true) :
    resumes i s =
      rxAdvance startConversion (edgeReading i) (edgeReading i s.ports.adcData (takeReading s)) := by
  rw [hi.resumes_eq, rxRun_reading _ _ hr ha]

/-- The level test reads the thresholds, the peak-to-peak and the level, and nothing else. -/
theorem crossing_congr {r q : Receiver} (hp2p : q.calP2p = r.calP2p) (hlow : q.thrLow = r.thrLow)
    (hhigh : q.thrHigh = r.thrHigh) (hlevel : q.level = r.level) : Crossing x q ↔ Crossing x r := by
  unfold Crossing
  rw [hp2p, hlow, hhigh, hlevel]

/-- A crossing returns the duration since the last flip and commits the flip (R157, R158). -/
theorem nextEdgeReading_of_crossing (h : Crossing x s.rx) :
    nextEdgeReading x s = finish { s with
      rx := commitFlip (countSample (foldSample x s.rx)), res := duration s.rx.tick s.rx.lastFlip } := by
  rcases detect_cases x s.rx with ⟨-, hd⟩ | ⟨hf, -⟩
  · simp [nextEdgeReading, edgeIteration_eq, hd]
  · simp [(crossing_iff_flips x s.rx).mp h] at hf

/-- Without a crossing every loop over NEXT_EDGE counts the sample and goes round (R150, R155). -/
theorem edgeReading_of_not_crossing (hi : RunsNextEdge i) (h : ¬Crossing x s.rx) :
    edgeReading i x s = awaitTick { s with rx := countSample (foldSample x s.rx) } := by
  rw [crossing_iff_flips, Bool.not_eq_true] at h
  have hperiod : periodIteration x s = ({ s with rx := countSample (foldSample x s.rx) }, none) := by
    rcases periodIteration_cases x s with ⟨-, hp⟩ | ⟨hf, -⟩ | ⟨hf, -⟩
    · exact hp
    all_goals simp [h] at hf
  have hpacket : packetIteration x s = ({ s with rx := countSample (foldSample x s.rx) }, none) := by
    simp [packetIteration, hperiod]
  rcases hi with rfl | rfl | rfl | rfl
  · rcases detect_cases x s.rx with ⟨hf, -⟩ | ⟨-, hd⟩
    · simp [h] at hf
    · simp [edgeReading, nextEdgeReading, edgeIteration_eq, hd]
  · simp [edgeReading, fullPeriodReading, hperiod]
  · simp [edgeReading, readPacketReading, hpacket]
  · simp [edgeReading, decodeConfigReading, hpacket]

/-- Round the loop with the reading taken: the tick, the wait and the ports are those of `GoesRound`, and nothing else
moves. -/
theorem rxAdvance_goesRound (g : Sample → State → State) {u : State} (htick : u.rx.tick = s.rx.tick)
    (hports : u.ports = { s.ports with adcDone := false }) (htrace : u.trace = s.trace) :
    ∃ t, rxAdvance startConversion g (awaitTick u) = t ∧ GoesRound s t ∧
      t = { u with
        rx.tick := t.rx.tick, seq.rxState := t.seq.rxState, ports := t.ports, trace := t.trace } ∧
      busTrace t = busTrace s ∧ t.ports.bus = s.ports.bus := by
  have htov : u.ports.tov = s.ports.tov := by rw [hports]
  rcases rxAdvance_awaitTick g u with ⟨ht, h⟩ | ⟨ht, h⟩ <;> rw [htov] at ht
  · refine ⟨awaitTick u, h, ?_, rfl, ?_, ?_⟩
    · simp [GoesRound, ht, htick, hports, htrace]
    · simp [busTrace, htrace]
    · simp [hports]
  · refine ⟨tickTaken u, h, ?_, rfl, ?_, ?_⟩
    · simp [GoesRound, tickTaken, ht, htick, hports, htrace]
    · simp [busTrace, tickTaken, htrace]
    · simp [tickTaken, hports]

end

/-- Settles O20: the reading is a crossing, so NEXT_EDGE returns and no wait comes after it. -/
theorem nextEdgeReturnsTheDurationOnACrossing : Obligations.NextEdgeReturnsTheDurationOnACrossing := by
  unfold Obligations.NextEdgeReturnsTheDurationOnACrossing
  intro s hrun hr ha hcross
  have hi : RunsNextEdge .nextEdge := .inl rfl
  obtain ⟨htick, hlevel, -, hring, hcur⟩ := countSample_frame (foldSample s.ports.adcData s.rx)
  have hread : edgeReading .nextEdge s.ports.adcData (takeReading s) = _ := nextEdgeReading_of_crossing hcross
  rw [exec_of_running hrun, hi.resumes_reading hr ha, hread, rxAdvance_waiting _ _ rfl]
  refine ⟨_, rfl, rfl, rfl, ?_, congrArg (!·) hlevel, htick, sampleCounted_countSample _ _, htick, hring, hcur,
    ⟨rfl, rfl, rfl, rfl, rfl, rfl, rfl⟩, ⟨rfl, rfl, rfl, rfl⟩, rfl, rfl⟩
  change (s.rx.tick - s.rx.lastFlip).toNat = _
  bv_omega

/-- Settles O21: without a crossing all four loops make the same of the reading, and go round. -/
theorem receiverLoopsGoOnWithoutACrossing : Obligations.ReceiverLoopsGoOnWithoutACrossing := by
  unfold Obligations.ReceiverLoopsGoOnWithoutACrossing
  intro i s hloop hrun hr ha hcross
  have hi : RunsNextEdge i := hloop
  obtain ⟨htick, hlevel, hflip, hring, hcur⟩ := countSample_frame (foldSample s.ports.adcData s.rx)
  have hread : edgeReading i s.ports.adcData (takeReading s) = _ := edgeReading_of_not_crossing hi hcross
  rw [exec_of_running hrun, hi.resumes_reading hr ha, hread]
  obtain ⟨t, he, hround, ht, hbusTrace, hbus⟩ := rxAdvance_goesRound (s := s) (edgeReading i)
    (u := { takeReading s with rx := countSample (foldSample s.ports.adcData s.rx) }) htick rfl rfl
  refine ⟨t, congrArg _ he, hround, ?_⟩
  rw [ht]
  rw [ht] at hbusTrace hbus
  exact ⟨rfl, rfl, rfl, hlevel, hflip, sampleCounted_countSample _ _, hring, hcur,
    ⟨rfl, rfl, rfl, rfl, hbusTrace, hbus, rfl⟩, ⟨rfl, rfl, rfl, rfl⟩⟩

/-! ### What moves the level -/

/-- From `r` to `q` no flip has been committed. -/
def LevelKept (r q : Receiver) : Prop := q.level = r.level ∧ q.lastFlip = r.lastFlip

/-- From `r` to `q` the sample `x` has crossed, and the flip has been committed at the tick of `r` (R153, R158). -/
def LevelFlipped (x : Sample) (r q : Receiver) : Prop :=
  q.level = (!r.level) ∧ q.lastFlip = r.tick ∧ Crossing x r

/-- From `r` to `q` the level is as the sample `x` has it. -/
def LevelMoves (x : Sample) (r q : Receiver) : Prop := LevelKept r q ∨ LevelFlipped x r q

/-- From `s` to `t` the level has moved at most on the reading the ports of `s` show, at the tick of that sample: the
present one at the wait for a conversion, the next one before it. -/
def LevelMovesOnReading (s t : State) : Prop :=
  LevelKept s.rx t.rx ∨
  (t.rx.level = (!s.rx.level) ∧ t.rx.lastFlip = (if s.seq.rxState = .waitAdc then s.rx.tick else s.rx.tick + 1) ∧
    Crossing s.ports.adcData s.rx ∧ s.ports.adcDone = true)

section
variable {r q p : Receiver} {x : Sample} {s t : State} {i : Instr}

theorem levelKept_refl (r : Receiver) : LevelKept r r := ⟨rfl, rfl⟩

theorem LevelKept.trans (h₁ : LevelKept r q) (h₂ : LevelKept q p) : LevelKept r p :=
  ⟨h₂.1.trans h₁.1, h₂.2.trans h₁.2⟩

theorem LevelMoves.trans_kept (h₁ : LevelMoves x r q) (h₂ : LevelKept q p) : LevelMoves x r p := by
  rcases h₁ with h₁ | ⟨hlevel, hflip, hcross⟩
  · exact .inl (h₁.trans h₂)
  · exact .inr ⟨h₂.1.trans hlevel, h₂.2.trans hflip, hcross⟩

theorem levelMoves_countSample (x : Sample) (r : Receiver) : LevelMoves x r (countSample (foldSample x r)) := by
  obtain ⟨-, hlevel, hflip, -⟩ := countSample_frame (foldSample x r)
  exact .inl ⟨hlevel, hflip⟩

theorem levelMoves_commitFlip (h : flips x r = true) :
    LevelMoves x r (commitFlip (countSample (foldSample x r))) := by
  obtain ⟨htick, hlevel, -⟩ := countSample_frame (foldSample x r)
  exact .inr ⟨congrArg (!·) hlevel, htick, (crossing_iff_flips x r).mpr h⟩

theorem levelMoves_edgeIteration (x : Sample) (s : State) : LevelMoves x s.rx (edgeIteration x s).1.rx := by
  rw [edgeIteration_eq]
  rcases detect_cases x s.rx with ⟨hf, h⟩ | ⟨-, h⟩ <;> rw [h]
  · exact levelMoves_commitFlip hf
  · exact levelMoves_countSample x s.rx

theorem levelMoves_periodIteration (x : Sample) (s : State) : LevelMoves x s.rx (periodIteration x s).1.rx := by
  rcases periodIteration_cases x s with ⟨-, h⟩ | ⟨hf, -, h⟩ | ⟨hf, -, h⟩ <;> rw [h]
  · exact levelMoves_countSample x s.rx
  · exact levelMoves_commitFlip hf
  · exact levelMoves_commitFlip hf

theorem levelMoves_packetIteration (x : Sample) (s : State) : LevelMoves x s.rx (packetIteration x s).1.rx := by
  have hperiod := levelMoves_periodIteration x s
  rcases packetIteration_cases x s with ⟨-, h⟩ | ⟨m, r, -, rfl, ⟨p, -, h⟩ | ⟨-, h⟩⟩ <;> rw [h] <;> exact hperiod

theorem decodePacket_rx (s : State) : (decodePacket s).rx = s.rx := by
  rcases decodePacket_cases s with ⟨c, -, h⟩ | ⟨-, h⟩ <;> rw [h]

theorem levelMoves_edgeReading (i : Instr) (x : Sample) (s : State) :
    LevelMoves x s.rx (edgeReading i x s).rx := by
  have hedge := levelMoves_edgeIteration x s
  have hperiod := levelMoves_periodIteration x s
  have hpacket := levelMoves_packetIteration x s
  cases i with
  | nextEdge =>
    simp only [edgeReading, nextEdgeReading]
    split <;> rename_i h <;> rw [h] at hedge <;> exact hedge
  | fullPeriod =>
    simp only [edgeReading, fullPeriodReading]
    split <;> rename_i h <;> rw [h] at hperiod <;> exact hperiod
  | readPacket =>
    simp only [edgeReading, readPacketReading]
    split <;> rename_i h <;> rw [h] at hpacket <;> exact hpacket
  | decodeConfig =>
    simp only [edgeReading, decodeConfigReading]
    split <;> rename_i t _ h <;> rw [h] at hpacket
    · exact hpacket
    · have hdecode : LevelMoves x s.rx (decodePacket t).rx := decodePacket_rx t ▸ hpacket
      split <;> exact hdecode
  | _ => exact .inl (levelKept_refl _)

/-- A reading moves the level once: its flag is down after it, and a tick moves none. -/
theorem levelMoves_resumes_reading (hi : RunsNextEdge i) (hr : s.seq.rxState = .waitAdc)
    (ha : s.ports.adcDone = true) : LevelMoves s.ports.adcData s.rx (resumes i s).rx := by
  have hread := levelMoves_edgeReading i s.ports.adcData (takeReading s)
  have hports := (rxContinuation_edgeReading i s.ports.adcData (takeReading s)).1
  rw [hi.resumes_reading hr ha]
  generalize edgeReading i s.ports.adcData (takeReading s) = v at *
  rcases rxAdvance_cases startConversion (edgeReading i) v with ⟨-, h⟩ | ⟨-, -, h⟩ | ⟨-, hup, -⟩
  · rw [h]
    exact hread
  · rw [h]
    exact hread.trans_kept ⟨rfl, rfl⟩
  · simp [hports] at hup

theorem levelMovesOnReading_resumes (hi : RunsNextEdge i) (s : State) : LevelMovesOnReading s (resumes i s) := by
  rcases rxAdvance_cases startConversion (edgeReading i) s with ⟨hw, -⟩ | ⟨hr, ht, -⟩ | ⟨hr, ha, -⟩
  · rw [hi.resumes_eq, rxRun_waiting _ _ hw]
    exact .inl (levelKept_refl _)
  · rw [hi.resumes_tick hr ht]
    cases ha : s.ports.adcDone with
    | false =>
      rw [hi.resumes_tickTaken ha]
      exact .inl ⟨rfl, rfl⟩
    | true =>
      have hread := levelMoves_resumes_reading (s := tickTaken s) hi rfl ha
      exact hread.imp id fun ⟨hlevel, hflip, hcross⟩ => ⟨hlevel, by rw [hr]; exact hflip, hcross, ha⟩
  · have hread := levelMoves_resumes_reading hi hr ha
    exact hread.imp id fun ⟨hlevel, hflip, hcross⟩ => ⟨hlevel, by rw [hr]; exact hflip, hcross, ha⟩

theorem levelKept_rxRun {f : State → State} {g : Sample → State → State} (hf : ∀ s, LevelKept s.rx (f s).rx)
    (hg : ∀ x s, LevelKept s.rx (g x s).rx) (s : State) : LevelKept s.rx (rxRun f g s).rx := by
  have hadvance (s : State) : LevelKept s.rx (rxAdvance f g s).rx := by
    rcases rxAdvance_cases f g s with ⟨-, h⟩ | ⟨-, -, h⟩ | ⟨-, -, h⟩ <;> rw [h]
    · exact levelKept_refl _
    · exact hf (consumeTick s)
    · exact hg _ (takeReading s)
  exact (hadvance s).trans (hadvance _)

/-- The other operations have no detector. -/
theorem levelKept_resumes_begins (hi : ¬RunsNextEdge i) (s : State) :
    LevelKept s.rx (begins i s).rx ∧ LevelKept s.rx (resumes i s).rx := by
  have hbus {i : Instr} (h : i.isReceiver = false) :
      LevelKept s.rx (begins i s).rx ∧ LevelKept s.rx (resumes i s).rx := by
    obtain ⟨hbegin, -⟩ := sameOutsideBus_begins h s
    obtain ⟨hresume, -⟩ := sameOutsideBus_resumes h s
    rw [hbegin, hresume]
    exact ⟨levelKept_refl _, levelKept_refl _⟩
  cases i with
  | waitTick =>
    exact ⟨levelKept_refl _, levelKept_rxRun (f := finish) (fun _ => levelKept_refl _) (fun _ _ => levelKept_refl _) s⟩
  | sample =>
    exact ⟨levelKept_refl _,
      levelKept_rxRun (g := returnSample) (fun _ => levelKept_refl _) (fun _ _ => levelKept_refl _) s⟩
  | decode => exact ⟨decodePacket_rx s ▸ levelKept_refl _, levelKept_refl _⟩
  | busXact addr wlen rlen => exact hbus rfl
  | regWrite addr reg val => exact hbus rfl
  | nextEdge => exact absurd (.inl rfl) hi
  | fullPeriod => exact absurd (.inr (.inl rfl)) hi
  | readPacket => exact absurd (.inr (.inr (.inl rfl))) hi
  | decodeConfig => exact absurd (.inr (.inr (.inr rfl))) hi

/-- An idle block is at no wait for a conversion, so the sample its command may take at once is that of the next tick. -/
theorem exec_levelMovesOnReading (hidle : s.flags.busy = false → s.seq.rxState = .idle) (he : exec i s = .next t) :
    LevelMovesOnReading s t := by
  rw [exec_eq_runOperation, Host.Outcome.next.injEq] at he
  subst he
  rcases runOperation_cases i (begins i) (resumes i) s with ⟨hb, -, h⟩ | ⟨-, -, h⟩ | ⟨-, h⟩ | ⟨-, -, h⟩ <;> rw [h]
  · by_cases hi : RunsNextEdge i
    · have hmoves := levelMovesOnReading_resumes hi (begins i (accept i s))
      rw [hi.begins_eq] at hmoves ⊢
      unfold LevelMovesOnReading
      rw [hidle hb]
      exact hmoves
    · obtain ⟨hbegin, -⟩ := levelKept_resumes_begins hi (accept i s)
      obtain ⟨-, hresume⟩ := levelKept_resumes_begins hi (begins i (accept i s))
      exact .inl (hbegin.trans hresume)
  · exact .inl (levelKept_refl _)
  · by_cases hi : RunsNextEdge i
    · exact levelMovesOnReading_resumes hi s
    · exact .inl (levelKept_resumes_begins hi s).2
  · exact .inl (levelKept_refl _)

end

/-- Settles O24, along what a step can do (`step_cases`): only an operation moves the level, on the reading it finds. -/
theorem levelMovesOnlyOnACrossing : Obligations.LevelMovesOnlyOnACrossing := by
  unfold Obligations.LevelMovesOnlyOnACrossing
  intro s t hseq hstep hrst
  have hidle : (takeInput s).1.flags.busy = false → (takeInput s).1.seq.rxState = .idle := by
    rw [(takeInput_busy_opr s).1, takeInput_seq_eq]
    intro hb
    rcases sequencingOk_cases hseq with ⟨-, ho⟩ | ⟨i, ⟨hbusy, -⟩, -⟩
    · obtain ⟨-, hr, -⟩ := (sequencingOk_of_none ho).mp hseq
      exact hr
    · simp [hb] at hbusy
  rw [← takeInput_rx s, ← takeInput_seq_eq s]
  rcases step_cases hstep with ⟨hr, -⟩ | ⟨-, ⟨i, he, -⟩ | ⟨rfl, -⟩ | ⟨rfl, -⟩⟩
  · simp [hrst] at hr
  · exact exec_levelMovesOnReading hidle he
  · exact .inl ⟨rfl, rfl⟩
  · exact .inl ⟨rfl, rfl⟩

/-! ### NEXT_EDGE over a list of samples -/

/-- NEXT_EDGE is suspended at its wait for a tick, and neither flag of the receiver is up. -/
structure AwaitsTick (s : State) : Prop where
  running : Running .nextEdge s
  rxState : s.seq.rxState = .waitTick
  tov : s.ports.tov = false
  adcDone : s.ports.adcDone = false
  rst : s.ports.rst = false

/-- `s` with the two inputs of an iteration taken: the tick consumed, and its reading there. -/
def withReading (x : Sample) (rest : List Input) (s : State) : State :=
  { tickTaken s with inbox := rest, ports := { s.ports with adcDone := true, adcData := x } }

/-- A run that has come to `t` goes on from there. -/
theorem run_add {M : Host.Core} {m : Nat} {s t : M.State} (n : Nat) (h : M.run m s = .next t) :
    M.run (m + n) s = M.run n t := by
  induction m generalizing s with
  | zero =>
    cases h
    rw [Nat.zero_add]
  | succ m ih =>
    rw [Nat.succ_add]
    cases hs : M.step s with
    | next u =>
      simp only [Host.Core.run, hs] at h ⊢
      exact ih h
    | fault r => simp [Host.Core.run, hs] at h
    | refused r => simp [Host.Core.run, hs] at h

theorem run_one {M : Host.Core} {s t : M.State} (h : M.step s = .next t) : M.run 1 s = .next t := by
  simp [Host.Core.run, h]

section
variable {s t : State} {x : Sample} {rest : List Input}

theorem AwaitsTick.step_tick (h : AwaitsTick s) (hin : s.inbox = .timerOverflow :: rest) :
    step s = .next (tickTaken { s with inbox := rest, ports.tov := true }) := by
  have hi : RunsNextEdge .nextEdge := .inl rfl
  have hrun : Running .nextEdge { s with inbox := rest, ports.tov := true } := h.running
  calc step s
    _ = exec .nextEdge { s with inbox := rest, ports.tov := true } :=
      step_of_running (takeInput_cons hin) h.rst hrun.2
    _ = exec .nextEdge (tickTaken { s with inbox := rest, ports.tov := true }) := exec_of_tick hi hrun h.rxState rfl
    _ = .next (tickTaken { s with inbox := rest, ports.tov := true }) := exec_tickTaken hi hrun h.adcDone

/-- The two inputs of an iteration bring NEXT_EDGE to its reading (R144). -/
theorem AwaitsTick.run_iteration (h : AwaitsTick s) (hin : s.inbox = iterationInputs x ++ rest)
    (he : exec .nextEdge (withReading x rest s) = .next t) : Sys2Proof.core.run 2 s = .next t := by
  have htick := h.step_tick hin
  set u := tickTaken { s with inbox := .conversionDone x :: rest, ports.tov := true } with hu
  have hreading : takeInput u = (withReading x rest s, none) := by
    rw [takeInput_cons (s := u) (e := .conversionDone x) (rest := rest) rfl]
    simp [hu, withReading, tickTaken, applyInput, h.tov]
  have hstep : step u = .next t := (step_of_running hreading h.rst h.running.2).trans he
  exact (run_add (M := Sys2Proof.core) 1 (run_one htick)).trans (run_one hstep)

/-- An iteration without a crossing leaves NEXT_EDGE at its wait for the next tick, with one tick and one sample more;
inside the window the level test stays as it was. -/
theorem AwaitsTick.run_quiet_iteration (h : AwaitsTick s) (hin : s.inbox = iterationInputs x ++ rest)
    (hx : ¬Crossing x s.rx) :
    ∃ t, Sys2Proof.core.run 2 s = .next t ∧ AwaitsTick t ∧ t.inbox = rest ∧ t.rx.tick = s.rx.tick + 1 ∧
      LevelKept s.rx t.rx ∧ t.res = s.res ∧
      (s.rx.calPos.toNat + 1 < 1000 →
        t.rx.calPos.toNat = s.rx.calPos.toNat + 1 ∧ ∀ y, Crossing y t.rx ↔ Crossing y s.rx) := by
  obtain ⟨t, he, hround, hflags, hseq, hres, hlevel, hflip, hcount, -, -, hout, -⟩ :=
    receiverLoopsGoOnWithoutACrossing .nextEdge (withReading x rest s) (.inl rfl) h.running rfl rfl hx
  obtain ⟨-, -, -, -, -, -, hinbox⟩ := hout
  have htov : (withReading x rest s).ports.tov = false := h.tov
  unfold GoesRound at hround
  rw [htov, if_neg Bool.false_ne_true] at hround
  obtain ⟨htick, hrx, hports, -⟩ := hround
  refine ⟨t, h.run_iteration hin he, ⟨⟨?_, ?_⟩, hrx, ?_, ?_, ?_⟩, hinbox, htick, ⟨hlevel, hflip⟩, hres, fun hpos => ?_⟩
  · rw [hflags]; exact h.running.1
  · rw [hseq]; exact h.running.2
  · rw [hports]; exact h.tov
  · rw [hports]
  · rw [hports]; exact h.rst
  · have hinside : ¬(withReading x rest s).rx.calPos.toNat + 1 = 1000 := Nat.ne_of_lt hpos
    unfold SampleCounted at hcount
    rw [if_neg hinside] at hcount
    obtain ⟨hnext, -, -, hp2p, hlow, hhigh⟩ := hcount
    have hcalPos : t.rx.calPos = s.rx.calPos + 1 := hnext
    exact ⟨by bv_omega, fun y => crossing_congr hp2p hlow hhigh hlevel⟩

/-- Samples of one window, none of which crosses, keep NEXT_EDGE at its wait: each is a tick and no more. -/
theorem AwaitsTick.run_quiet_samples {smps : List Sample} (h : AwaitsTick s)
    (hin : s.inbox = smps.flatMap iterationInputs ++ rest) (hquiet : ∀ x ∈ smps, ¬Crossing x s.rx)
    (hpos : s.rx.calPos.toNat + smps.length ≤ 1000) :
    ∃ t, Sys2Proof.core.run (2 * smps.length) s = .next t ∧ AwaitsTick t ∧ t.inbox = rest ∧
      t.rx.tick = s.rx.tick + BitVec.ofNat 16 smps.length ∧ LevelKept s.rx t.rx ∧ t.res = s.res ∧
      (s.rx.calPos.toNat + smps.length < 1000 → ∀ y, Crossing y t.rx ↔ Crossing y s.rx) := by
  induction smps generalizing s with
  | nil => exact ⟨s, rfl, h, hin, by simp, levelKept_refl _, rfl, fun _ _ => .rfl⟩
  | cons x xs ih =>
    rw [List.length_cons] at hpos ⊢
    obtain ⟨u, hrun, hu, hinbox, htick, hkept, hres, hsame⟩ := h.run_quiet_iteration
      (rest := xs.flatMap iterationInputs ++ rest) (by simpa using hin) (hquiet x (by simp))
    have hcount : s.rx.tick + BitVec.ofNat 16 (xs.length + 1) = u.rx.tick + BitVec.ofNat 16 xs.length := by
      rw [htick]
      bv_omega
    rw [hcount, show 2 * (xs.length + 1) = 2 + 2 * xs.length by omega, run_add (M := Sys2Proof.core) _ hrun]
    rcases Nat.lt_or_ge (s.rx.calPos.toNat + 1) 1000 with hinside | hend
    · obtain ⟨hcalPos, hcross⟩ := hsame hinside
      obtain ⟨t, hrun', ht, hinbox', htick', hkept', hres', hsame'⟩ := ih hu hinbox
        (fun y hy => mt (hcross y).mp (hquiet y (List.mem_cons_of_mem x hy))) (by omega)
      exact ⟨t, hrun', ht, hinbox', htick', hkept.trans hkept', hres'.trans hres,
        fun hlt y => (hsame' (by omega) y).trans (hcross y)⟩
    · have hnil : xs = [] := List.eq_nil_of_length_eq_zero (by omega)
      subst hnil
      exact ⟨u, rfl, hu, hinbox, by simp, hkept, hres, fun hlt => absurd hlt (by simp; omega)⟩

end

/-- Settles O25: with detection off no sample of the window crosses. -/
theorem noEdgeWhileDetectionIsOff : Obligations.NoEdgeWhileDetectionIsOff := by
  unfold Obligations.NoEdgeWhileDetectionIsOff
  intro s smps hrun hrx htov hdone hrst hoff hpos hin
  have hquiet (x : Sample) : ¬Crossing x s.rx := fun ⟨hon, _⟩ => absurd hon (Nat.not_lt.mpr hoff)
  have hwait : AwaitsTick s := ⟨hrun, hrx, htov, hdone, hrst⟩
  obtain ⟨t, hruns, ht, -, htick, ⟨hlevel, hflip⟩, hres, -⟩ :=
    hwait.run_quiet_samples (rest := []) (by simpa using hin) (fun x _ => hquiet x) hpos
  exact ⟨t, hruns, ht.running, ht.rxState, htick, hlevel, hflip, hres⟩

/-- Settles O26: the samples before the last keep NEXT_EDGE waiting with its thresholds as they were, and the last one
is a crossing, on which it returns (R157). -/
theorem firstCrossingEndsNextEdge : Obligations.FirstCrossingEndsNextEdge := by
  unfold Obligations.FirstCrossingEndsNextEdge
  intro s smps last hrun hrx htov hdone hrst hquiet hlast hpos hin
  have hwait : AwaitsTick s := ⟨hrun, hrx, htov, hdone, hrst⟩
  obtain ⟨u, hruns, hu, hinbox, htick, ⟨hlevel, hflip⟩, -, hsame⟩ :=
    hwait.run_quiet_samples (rest := iterationInputs last) (by simpa using hin) hquiet hpos.le
  obtain ⟨t, he, hflags, -, hres, hlevel', hflip', -, htick', -, -, hout, -⟩ :=
    nextEdgeReturnsTheDurationOnACrossing (withReading last [] u) hu.running rfl rfl ((hsame hpos last).mpr hlast)
  obtain ⟨-, -, -, -, -, -, hinbox'⟩ := hout
  have hcount : t.rx.tick = s.rx.tick + BitVec.ofNat 16 (smps.length + 1) := by
    have hnext : t.rx.tick = u.rx.tick + 1 := htick'
    rw [hnext, htick]
    bv_omega
  refine ⟨t, ?_, by rw [hflags], hcount, hlevel'.trans (congrArg (!·) hlevel), hflip'.trans htick'.symm, ?_, hinbox'⟩
  · exact (run_add (M := Sys2Proof.core) 2 hruns).trans (hu.run_iteration (by simpa using hinbox) he)
  · rw [← htick'] at hres
    have hbefore : (withReading last [] u).rx.lastFlip = s.rx.lastFlip := hflip
    rw [hbefore] at hres
    bv_omega

end Sys2Proof.Machine

/-!
PROOFS. The Period Measurer (spec/42_period_measurer.md R170 to R172): what the first and the second edge make of a
reading, and a loop over NEXT_EDGE run over the samples of one bit's cell.
-/
namespace Sys2Proof.Machine

/-! ### The two edges of a period -/

/-- The operations that measure periods: the loops over NEXT_EDGE other than NEXT_EDGE itself (R170, R175, R206). -/
def MeasuresPeriods (i : Instr) : Prop := i = .fullPeriod ∨ i = .readPacket ∨ i = .decodeConfig

section
variable {i : Instr} {x : Sample} {s : State}

theorem MeasuresPeriods.runsNextEdge (hi : MeasuresPeriods i) : RunsNextEdge i := .inr hi

/-- A crossing with `EDGE_NO = 0` is kept in `D1`, and the loop goes on to its second NEXT_EDGE (R170). -/
theorem edgeReading_of_first_edge (hi : MeasuresPeriods i) (h : Crossing x s.rx) (he : s.seq.edgeNo = 0) :
    edgeReading i x s = awaitTick { s with
      rx := commitFlip (countSample (foldSample x s.rx)),
      seq.d1 := duration s.rx.tick s.rx.lastFlip, seq.edgeNo := 1 } := by
  rw [crossing_iff_flips] at h
  rcases periodIteration_cases x s with ⟨hf, -⟩ | ⟨-, -, hp⟩ | ⟨-, hne, -⟩
  · simp [h] at hf
  · rcases hi with rfl | rfl | rfl <;>
      simp [edgeReading, fullPeriodReading, readPacketReading, decodeConfigReading, packetIteration, hp]
  · exact absurd he hne

/-- A crossing with `EDGE_NO = 1` ends FULL_PERIOD with the sum of the two half-periods (R171). -/
theorem fullPeriodReading_of_second_edge (h : Crossing x s.rx) (he : s.seq.edgeNo = 1) :
    fullPeriodReading x s = finish { s with
      rx := commitFlip (countSample (foldSample x s.rx)), res := s.seq.d1 + duration s.rx.tick s.rx.lastFlip } := by
  rw [crossing_iff_flips] at h
  rcases periodIteration_cases x s with ⟨hf, -⟩ | ⟨-, hzero, -⟩ | ⟨-, -, hp⟩
  · simp [h] at hf
  · simp [he] at hzero
  · simp [fullPeriodReading, hp]

end

/-- Settles O27: all three loops make the same of the first edge, and go round. -/
theorem firstEdgeOfAPeriodIsKept : Obligations.FirstEdgeOfAPeriodIsKept := by
  unfold Obligations.FirstEdgeOfAPeriodIsKept
  intro i s hloop hrun hr ha hcross hedge
  have hi : MeasuresPeriods i := hloop
  obtain ⟨htick, hlevel, -, hring, hcur⟩ := countSample_frame (foldSample s.ports.adcData s.rx)
  have hread : edgeReading i s.ports.adcData (takeReading s) = _ := edgeReading_of_first_edge hi hcross hedge
  rw [exec_of_running hrun, hi.runsNextEdge.resumes_reading hr ha, hread]
  obtain ⟨t, he, hround, ht, hbusTrace, hbus⟩ := rxAdvance_goesRound (s := s) (edgeReading i)
    (u := { takeReading s with
      rx := commitFlip (countSample (foldSample s.ports.adcData s.rx))
      seq := { s.seq with rxState := .idle, d1 := duration s.rx.tick s.rx.lastFlip, edgeNo := 1 } }) htick rfl rfl
  refine ⟨t, congrArg _ he, hround, ?_⟩
  rw [ht]
  rw [ht] at hbusTrace hbus
  exact ⟨rfl, rfl, rfl, congrArg (!·) hlevel, htick, sampleCounted_countSample _ _, hring, hcur,
    ⟨rfl, rfl, rfl, rfl, hbusTrace, hbus, rfl⟩, ⟨rfl, rfl, rfl, rfl⟩⟩

/-- Settles O28: the reading is the second edge, so FULL_PERIOD returns and no wait comes after it. -/
theorem fullPeriodReturnsTheSumModulo65536 : Obligations.FullPeriodReturnsTheSumModulo65536 := by
  unfold Obligations.FullPeriodReturnsTheSumModulo65536
  intro s hrun hr ha hcross hedge
  have hi : RunsNextEdge .fullPeriod := .inr (.inl rfl)
  obtain ⟨htick, hlevel, -, hring, hcur⟩ := countSample_frame (foldSample s.ports.adcData s.rx)
  have hread : edgeReading .fullPeriod s.ports.adcData (takeReading s) = _ :=
    fullPeriodReading_of_second_edge hcross hedge
  rw [exec_of_running hrun, hi.resumes_reading hr ha, hread, rxAdvance_waiting _ _ rfl]
  exact ⟨_, rfl, rfl, rfl, BitVec.toNat_add _ _, congrArg (!·) hlevel, htick, sampleCounted_countSample _ _, htick, hring,
    hcur, ⟨rfl, rfl, rfl, rfl, rfl, rfl, rfl⟩, ⟨rfl, rfl, rfl, rfl⟩, rfl, rfl⟩

/-! ### A loop over NEXT_EDGE run over samples -/

/-- Operation `i` is suspended at its wait for a tick, and neither flag of the receiver is up: `AwaitsTick` for any
operation. -/
structure LoopAwaitsTick (i : Instr) (s : State) : Prop where
  running : Running i s
  rxState : s.seq.rxState = .waitTick
  tov : s.ports.tov = false
  adcDone : s.ports.adcDone = false
  rst : s.ports.rst = false

/-- `n` samples have brought operation `i` from `s` to `t`, where it waits for the next tick, inside the same
calibration window: they are counted, and the detector's thresholds are those of `s`. -/
structure SampledTo (i : Instr) (n : Nat) (s t : State) : Prop where
  run : Sys2Proof.core.run (2 * n) s = .next t
  awaits : LoopAwaitsTick i t
  tick : t.rx.tick = s.rx.tick + BitVec.ofNat 16 n
  calPos : t.rx.calPos.toNat = s.rx.calPos.toNat + n
  calP2p : t.rx.calP2p = s.rx.calP2p
  thrLow : t.rx.thrLow = s.rx.thrLow
  thrHigh : t.rx.thrHigh = s.rx.thrHigh

section
variable {i : Instr} {m n : Nat} {s t u : State} {x : Sample} {rest : List Input}

theorem sampledTo_zero (h : LoopAwaitsTick i s) : SampledTo i 0 s s :=
  ⟨rfl, h, by simp, rfl, rfl, rfl, rfl⟩

theorem SampledTo.trans (h₁ : SampledTo i m s u) (h₂ : SampledTo i n u t) : SampledTo i (m + n) s t where
  run := by rw [Nat.mul_add, run_add (M := Sys2Proof.core) _ h₁.run, h₂.run]
  awaits := h₂.awaits
  tick := by rw [h₂.tick, h₁.tick, BitVec.add_assoc, BitVec.ofNat_add]
  calPos := by rw [h₂.calPos, h₁.calPos, Nat.add_assoc]
  calP2p := h₂.calP2p.trans h₁.calP2p
  thrLow := h₂.thrLow.trans h₁.thrLow
  thrHigh := h₂.thrHigh.trans h₁.thrHigh

/-- The two inputs of an iteration bring a loop over NEXT_EDGE to its reading (R144). -/
theorem LoopAwaitsTick.run_iteration (hi : RunsNextEdge i) (h : LoopAwaitsTick i s)
    (hin : s.inbox = iterationInputs x ++ rest) (he : exec i (withReading x rest s) = .next t) :
    Sys2Proof.core.run 2 s = .next t := by
  set ticked : State := { s with inbox := .conversionDone x :: rest, ports.tov := true } with hticked
  have hrun : Running i ticked := h.running
  have htick : step s = .next (tickTaken ticked) := calc step s
    _ = exec i ticked := step_of_running (takeInput_cons hin) h.rst hrun.2
    _ = exec i (tickTaken ticked) := exec_of_tick hi hrun h.rxState rfl
    _ = .next (tickTaken ticked) := exec_tickTaken hi hrun h.adcDone
  have hreading : takeInput (tickTaken ticked) = (withReading x rest s, none) := by
    rw [takeInput_cons (s := tickTaken ticked) (e := .conversionDone x) (rest := rest) rfl]
    simp [hticked, withReading, tickTaken, applyInput, h.tov]
  have hstep : step (tickTaken ticked) = .next t := (step_of_running hreading h.rst hrun.2).trans he
  exact (run_add (M := Sys2Proof.core) 1 (run_one htick)).trans (run_one hstep)

/-- An iteration after which the loop has gone round, whatever it made of its reading. -/
theorem LoopAwaitsTick.sampledTo_one (hi : RunsNextEdge i) (h : LoopAwaitsTick i s)
    (hin : s.inbox = iterationInputs x ++ rest) (hpos : s.rx.calPos.toNat + 1 < 1000)
    (he : exec i (withReading x rest s) = .next t) (hround : GoesRound (withReading x rest s) t)
    (hbusy : t.flags.busy = s.flags.busy) (hopr : t.seq.opr = s.seq.opr)
    (hcount : SampleCounted x (withReading x rest s).rx t.rx) : SampledTo i 1 s t := by
  have htov : (withReading x rest s).ports.tov = false := h.tov
  unfold GoesRound at hround
  rw [htov, if_neg Bool.false_ne_true] at hround
  obtain ⟨htick, hrx, hports, -⟩ := hround
  have hinside : ¬(withReading x rest s).rx.calPos.toNat + 1 = 1000 := Nat.ne_of_lt hpos
  unfold SampleCounted at hcount
  rw [if_neg hinside] at hcount
  obtain ⟨hnext, -, -, hp2p, hlow, hhigh⟩ := hcount
  have hcalPos : t.rx.calPos = s.rx.calPos + 1 := hnext
  refine ⟨h.run_iteration hi hin he, ⟨⟨hbusy.trans h.running.1, hopr.trans h.running.2⟩, hrx, ?_, ?_, ?_⟩, htick,
    by bv_omega, hp2p, hlow, hhigh⟩
  · rw [hports]; exact h.tov
  · rw [hports]
  · rw [hports]; exact h.rst

/-- A sample without a crossing leaves the level and the sequencing state as they were. -/
theorem LoopAwaitsTick.quiet_sample (hi : RunsNextEdge i) (h : LoopAwaitsTick i s)
    (hin : s.inbox = iterationInputs x ++ rest) (hpos : s.rx.calPos.toNat + 1 < 1000) (hx : ¬Crossing x s.rx) :
    ∃ t, SampledTo i 1 s t ∧ t.inbox = rest ∧ LevelKept s.rx t.rx ∧ t.seq = s.seq := by
  obtain ⟨t, he, hround, hflags, hseq, -, hlevel, hflip, hcount, -, -, hout, -⟩ :=
    receiverLoopsGoOnWithoutACrossing i (withReading x rest s) hi h.running rfl rfl hx
  obtain ⟨-, -, -, -, -, -, hinbox⟩ := hout
  have hsampled : SampledTo i 1 s t :=
    h.sampledTo_one hi hin hpos he hround (by rw [hflags]; rfl) (by rw [hseq]; rfl) hcount
  refine ⟨t, hsampled, hinbox, ⟨hlevel, hflip⟩, ?_⟩
  rw [hseq, hsampled.awaits.rxState, ← h.rxState]
  rfl

/-- The first edge of a period leaves the loop waiting for the second, the half-period kept (R170). -/
theorem LoopAwaitsTick.first_edge (hi : MeasuresPeriods i) (h : LoopAwaitsTick i s)
    (hin : s.inbox = iterationInputs x ++ rest) (hpos : s.rx.calPos.toNat + 1 < 1000) (hx : Crossing x s.rx)
    (hedge : s.seq.edgeNo = 0) :
    ∃ t, SampledTo i 1 s t ∧ t.inbox = rest ∧ t.rx.level = (!s.rx.level) ∧ t.rx.lastFlip = t.rx.tick ∧
      t.seq.edgeNo = 1 ∧ t.seq.d1 = t.rx.tick - s.rx.lastFlip := by
  obtain ⟨t, he, hround, hflags, hseq, -, hlevel, hflip, hcount, -, -, hout, -⟩ :=
    firstEdgeOfAPeriodIsKept i (withReading x rest s) hi h.running rfl rfl hx hedge
  obtain ⟨-, -, -, -, -, -, hinbox⟩ := hout
  have hsampled : SampledTo i 1 s t :=
    h.sampledTo_one hi.runsNextEdge hin hpos he hround (by rw [hflags]; rfl) (by rw [hseq]; rfl) hcount
  refine ⟨t, hsampled, hinbox, hlevel, ?_, by rw [hseq], ?_⟩
  · rw [hflip, hsampled.tick]; rfl
  · rw [hseq, hsampled.tick]; rfl

/-- Equal samples that do not cross keep the loop at its wait: each is a tick and no more. -/
theorem LoopAwaitsTick.quiet_replicate (hi : RunsNextEdge i) (h : LoopAwaitsTick i s)
    (hin : s.inbox = (List.replicate n x).flatMap iterationInputs ++ rest) (hpos : s.rx.calPos.toNat + n < 1000)
    (hx : ¬Crossing x s.rx) :
    ∃ t, SampledTo i n s t ∧ t.inbox = rest ∧ LevelKept s.rx t.rx ∧ t.seq = s.seq := by
  induction n generalizing s with
  | zero => exact ⟨s, sampledTo_zero h, by simpa using hin, levelKept_refl _, rfl⟩
  | succ n ih =>
    obtain ⟨u, hu, hinbox, hkept, hseq⟩ := h.quiet_sample hi
      (rest := (List.replicate n x).flatMap iterationInputs ++ rest)
      (by simpa [List.replicate_succ] using hin) (by omega) hx
    have hsame : Crossing x u.rx ↔ Crossing x s.rx := crossing_congr hu.calP2p hu.thrLow hu.thrHigh hkept.1
    obtain ⟨t, ht, hinbox', hkept', hseq'⟩ := ih hu.awaits hinbox (by rw [hu.calPos]; omega) (mt hsame.mp hx)
    exact ⟨t, Nat.add_comm 1 n ▸ hu.trans ht, hinbox', hkept.trans hkept', hseq'.trans hseq⟩

/-- The second edge of a period ends FULL_PERIOD, with the sum of the half-periods in `RES` (R171). -/
theorem LoopAwaitsTick.second_edge (h : LoopAwaitsTick .fullPeriod s) (hin : s.inbox = iterationInputs x ++ rest)
    (hx : Crossing x s.rx) (hedge : s.seq.edgeNo = 1) :
    ∃ t, Sys2Proof.core.run 2 s = .next t ∧ t.flags.busy = false ∧ t.rx.tick = s.rx.tick + 1 ∧
      t.res = s.seq.d1 + (t.rx.tick - s.rx.lastFlip) ∧ t.rx.level = (!s.rx.level) ∧ t.rx.lastFlip = t.rx.tick := by
  obtain ⟨t, he, hflags, -, hres, hlevel, hflip, -, htick, -⟩ :=
    fullPeriodReturnsTheSumModulo65536 (withReading x rest s) h.running rfl rfl hx hedge
  rw [← htick] at hres
  exact ⟨t, h.run_iteration (.inr (.inl rfl)) hin he, by rw [hflags], htick,
    BitVec.eq_of_toNat_eq (hres.trans (BitVec.toNat_add _ _).symm), hlevel, hflip.trans htick.symm⟩

end

/-! ### A cell that begins with its dark half -/

/-- The samples from the second one of a dark-first cell to the first one of the next. -/
theorem cellSamples_darkFirst_drop_one (dark bright : Nat) (low high : Sample) :
    (cellSamples .darkFirst (dark + 1) (bright + 1) low high).drop 1 ++ [low] =
      List.replicate dark low ++ high :: (List.replicate bright high ++ [low]) := by
  simp [cellSamples, List.replicate_succ]

/-- Which of the two amplitudes crosses is a matter of the level alone (R153). -/
theorem crossing_amplitudes {r : Receiver} {low high : Sample} (hon : 100 < r.calP2p.toNat)
    (hlow : low.toNat < r.thrLow.toNat) (hhigh : r.thrHigh.toNat < high.toNat)
    (hthr : r.thrLow.toNat ≤ r.thrHigh.toNat) :
    (Crossing low r ↔ r.level = true) ∧ (Crossing high r ↔ r.level = false) := by
  have hlow' : ¬r.thrHigh.toNat < low.toNat := by omega
  have hhigh' : ¬high.toNat < r.thrLow.toNat := by omega
  simp [Crossing, hon, hlow, hhigh, hlow', hhigh']

/-- Settles O29: the dark samples do not cross at level 0, the first bright one is the first edge, the bright ones after
it do not cross at level 1, and the next cell's first dark sample is the second edge; the two durations are the two
halves (R172). -/
theorem darkFirstCellMeasuresAsItsLength : Obligations.DarkFirstCellMeasuresAsItsLength := by
  unfold Obligations.DarkFirstCellMeasuresAsItsLength
  intro s dark bright low high hrun hrx hedge htov hdone hrst hlevel hflip hon hlow hhigh hthr hdark hbright hpos hin
  obtain ⟨dark, rfl⟩ := Nat.exists_eq_add_of_le' hdark
  obtain ⟨bright, rfl⟩ := Nat.exists_eq_add_of_le' hbright
  rw [cellSamples_darkFirst_drop_one] at hin
  have hi : MeasuresPeriods .fullPeriod := .inl rfl
  have hwait : LoopAwaitsTick .fullPeriod s := ⟨hrun, hrx, htov, hdone, hrst⟩
  have hcross {n : Nat} {t : State} (h : SampledTo .fullPeriod n s t) :
      (Crossing low t.rx ↔ t.rx.level = true) ∧ (Crossing high t.rx ↔ t.rx.level = false) :=
    crossing_amplitudes (h.calP2p ▸ hon) (h.thrLow ▸ hlow) (h.thrHigh ▸ hhigh) (h.thrLow ▸ h.thrHigh ▸ hthr)
  -- the rest of the dark half
  obtain ⟨s₁, h₁, hin₁, ⟨hlevel₁, hflip₁⟩, hseq₁⟩ := hwait.quiet_replicate hi.runsNextEdge
    (n := dark) (x := low) (rest := (high :: (List.replicate bright high ++ [low])).flatMap iterationInputs)
    (by simpa using hin) (by omega) (by simp [(hcross (sampledTo_zero hwait)).1, hlevel])
  -- the first bright sample
  obtain ⟨s₂, h₂, hin₂, hlevel₂, hflip₂, hedge₂, hd₂⟩ := h₁.awaits.first_edge hi
    (x := high) (rest := (List.replicate bright high ++ [low]).flatMap iterationInputs)
    (by simpa using hin₁) (by rw [h₁.calPos]; omega) ((hcross h₁).2.mpr (hlevel₁.trans hlevel)) (by rw [hseq₁, hedge])
  rw [hlevel₁, hlevel] at hlevel₂
  have h₀₂ := h₁.trans h₂
  -- the rest of the bright half
  obtain ⟨s₃, h₃, hin₃, ⟨hlevel₃, hflip₃⟩, hseq₃⟩ := h₂.awaits.quiet_replicate hi.runsNextEdge
    (n := bright) (x := high) (rest := iterationInputs low)
    (by simpa using hin₂) (by rw [h₀₂.calPos]; omega) (by simp [(hcross h₀₂).2, hlevel₂])
  have h₀₃ := h₀₂.trans h₃
  -- the next cell's first dark sample
  obtain ⟨t, hrun', hbusy, htick, hres, hlevel', hflip'⟩ := h₃.awaits.second_edge
    (x := low) (rest := []) (by simpa using hin₃) ((hcross h₀₃).1.mpr (hlevel₃.trans hlevel₂)) (by rw [hseq₃, hedge₂])
  rw [hlevel₃, hlevel₂] at hlevel'
  refine ⟨t, ?_, hbusy, ?_, hlevel', hflip'⟩
  · rw [show 2 * (dark + 1 + (bright + 1)) = 2 * (dark + 1 + bright) + 2 by omega,
      run_add (M := Sys2Proof.core) _ h₀₃.run, hrun']
  · have hdark' : s₂.seq.d1 = BitVec.ofNat 16 (dark + 1) := by
      rw [hd₂, h₀₂.tick, hflip₁, hflip]
      bv_omega
    have hbright' : t.rx.tick - s₃.rx.lastFlip = BitVec.ofNat 16 (bright + 1) := by
      rw [htick, h₃.tick, hflip₃, hflip₂]
      bv_omega
    rw [hres, hseq₃, hdark', hbright', ← BitVec.ofNat_add]

end Sys2Proof.Machine

/-!
PROOFS. The Framer (spec/43_framer.md R175 to R189): the depth check on the truncated thresholds, the ring as a queue,
the candidate packet as the classified ring in the spec's bit order, and what the second edge of a period makes of it.
-/
namespace Sys2Proof.Machine

/-! ### The depth check -/

/-- The two truncated percentages of a span differ by at least 20 for these spans alone; 66 fails, since its lower
percentage is cut by less than its upper one (R189). -/
theorem twenty_le_percent_difference (span : Nat) :
    20 ≤ 65 * span / 100 - 35 * span / 100 ↔ span = 65 ∨ 67 ≤ span := by
  by_cases hsmall : span < 64
  · omega
  · by_cases hlarge : 67 ≤ span
    · omega
    · interval_cases span <;> decide

/-- Settles O30, by the percentages of the span `max − min`. -/
theorem depthCheckAcceptSet : Obligations.DepthCheckAcceptSet := by
  unfold Obligations.DepthCheckAcceptSet
  intro window
  have hdifference : splitHigh window - splitLow window =
      65 * (maxOf window - minOf window) / 100 - 35 * (maxOf window - minOf window) / 100 :=
    Nat.add_sub_add_left _ _ _
  rw [hdifference]
  exact twenty_le_percent_difference _

/-! ### The ring as a queue -/

@[simp] theorem ringGet_ringSet_same (r : Vector Tick 32) (i : BitVec 5) (v : Tick) :
    ringGet (ringSet r i v) i = v := by
  simp [ringGet, ringSet, Vector.get_eq_getElem]

theorem ringGet_ringSet_other (r : Vector Tick 32) {i j : BitVec 5} (v : Tick) (h : j ≠ i) :
    ringGet (ringSet r i v) j = ringGet r j := by
  have hne : i.toNat ≠ j.toNat := fun he => h (BitVec.eq_of_toNat_eq he.symm)
  simp [ringGet, ringSet, Vector.get_eq_getElem, hne]

@[simp] theorem length_oldestFirst (r : Receiver) : (oldestFirst r).length = 32 := by simp [oldestFirst]

@[simp] theorem length_newest (r : Receiver) : (newest r).length = 8 := by simp [newest]

@[simp] theorem getElem_oldestFirst (r : Receiver) {i : Nat} (h : i < (oldestFirst r).length) :
    (oldestFirst r)[i] = ringGet r.ring (r.cur + BitVec.ofNat 5 i) := by
  simp [oldestFirst]

@[simp] theorem getElem_newest (r : Receiver) {k : Nat} (h : k < (newest r).length) :
    (newest r)[k] = ringGet r.ring (r.cur - BitVec.ofNat 5 (k + 1)) := by
  simp [newest]

/-- Both windows of the ring are counted from the cursor, upwards and downwards, modulo 32 (R176, R177). -/
theorem newest_eq_reverse_drop (r : Receiver) : newest r = ((oldestFirst r).drop 24).reverse := by
  refine List.ext_getElem (by simp) fun k hk _ => ?_
  rw [length_newest] at hk
  have hindex : r.cur - BitVec.ofNat 5 (k + 1) = r.cur + BitVec.ofNat 5 (24 + (7 - k)) := by bv_omega
  simp [hindex]

theorem oldestFirst_pushPeriod (m : Tick) (r : Receiver) :
    oldestFirst (pushPeriod m r) = (oldestFirst r).drop 1 ++ [m] := by
  refine List.ext_getElem (by simp) fun i hi _ => ?_
  rw [length_oldestFirst] at hi
  rw [getElem_oldestFirst, pushPeriod_ring, pushPeriod_cur]
  by_cases hlast : i = 31
  · have hwrap : r.cur + 1 + BitVec.ofNat 5 i = r.cur := by bv_omega
    rw [hwrap, ringGet_ringSet_same]
    simp [hlast]
  · have hnext : r.cur + 1 + BitVec.ofNat 5 i = r.cur + BitVec.ofNat 5 (1 + i) := by bv_omega
    have hother : r.cur + BitVec.ofNat 5 (1 + i) ≠ r.cur := by bv_omega
    rw [hnext, ringGet_ringSet_other _ _ hother, List.getElem_append_left (by simp; omega), List.getElem_drop,
      getElem_oldestFirst]

/-- Settles O34: in terms of the cursor after the write, every index is one less than before. -/
theorem ringWriteReplacesTheOldestEntry : Obligations.RingWriteReplacesTheOldestEntry := by
  unfold Obligations.RingWriteReplacesTheOldestEntry
  intro r m
  have hcur : (pushPeriod m r).cur - 1 = r.cur := by rw [pushPeriod_cur]; bv_omega
  refine ⟨oldestFirst_pushPeriod m r, ?_, length_oldestFirst r, length_newest r, newest_eq_reverse_drop r⟩
  rw [hcur, pushPeriod_ring, ringGet_ringSet_same]

/-! ### Bits, bytes and packets -/

/-- The number a list of bits stands for, the first bit the most significant: what `byteOfBits` takes modulo 256. -/
def bitsValue (bs : List Bool) : Nat := bs.foldl (fun acc b => 2 * acc + b.toNat) 0

/-- Bit `i` of the number is the list's `i`-th from the end. -/
theorem testBit_bitsValue (bs : List Bool) (i : Nat) : (bitsValue bs).testBit i = bs.reverse[i]?.getD false := by
  induction bs using List.reverseRecOn generalizing i with
  | nil => simp [bitsValue]
  | append_singleton bs b ih =>
    have hsnoc : bitsValue (bs ++ [b]) = Nat.bit b (bitsValue bs) := by simp [bitsValue, Nat.bit_val]
    rw [hsnoc]
    cases i with
    | zero => simp
    | succ i => simpa [Nat.testBit_bit_succ] using ih i

/-- The first of a byte's bits is its most significant (R182). -/
theorem getLsbD_byteOfBits (bs : List Bool) {i : Nat} (hi : i < 8) :
    (byteOfBits bs).getLsbD i = bs.reverse[i]?.getD false := by
  have hvalue : byteOfBits bs = BitVec.ofNat 8 (bitsValue bs) := rfl
  rw [hvalue, BitVec.getLsbD_ofNat, testBit_bitsValue, decide_eq_true hi, Bool.true_and]

/-- The bits of a packet in the order of the ring's entries: bit 31 for the oldest (R180, R182). -/
def msbFirst (p : Word) : List Bool := (List.range 32).map fun k => p.getLsbD (31 - k)

@[simp] theorem length_msbFirst (p : Word) : (msbFirst p).length = 32 := by simp [msbFirst]

@[simp] theorem getElem_msbFirst (p : Word) {k : Nat} (h : k < (msbFirst p).length) :
    (msbFirst p)[k] = p.getLsbD (31 - k) := by
  simp [msbFirst]

/-- Packing the bits of a packet gives its bytes (R182). -/
theorem packByte_msbFirst (p : Word) {k : Nat} (hk : k < 4) :
    packByte (msbFirst p) k = p.extractLsb' (24 - 8 * k) 8 := by
  ext i hi
  have hlength : (((msbFirst p).drop (8 * k)).take 8).length = 8 := by simp; omega
  rw [← BitVec.getLsbD_eq_getElem, packByte, getLsbD_byteOfBits _ hi,
    List.getElem?_eq_getElem (by simpa [hlength] using hi)]
  simp [hlength, show 31 - (8 * k + (7 - i)) = 24 - 8 * k + i by omega]

/-- Any 32 bits are those of a packet. -/
theorem exists_msbFirst_eq {bs : List Bool} (h : bs.length = 32) : ∃ p, msbFirst p = bs := by
  refine ⟨BitVec.ofNat 32 (bitsValue bs), List.ext_getElem (by simp [h]) fun k hk hk' => ?_⟩
  rw [getElem_msbFirst, BitVec.getLsbD_ofNat, testBit_bitsValue, List.getElem?_eq_getElem (by simp; omega)]
  simp [h, show 31 - k < 32 by omega, show 31 - (31 - k) = k by omega]

theorem packetWord_toNat (b0 b1 b2 b3 : Byte) :
    (packetWord b0 b1 b2 b3).toNat = ((b0.toNat * 256 + b1.toNat) * 256 + b2.toNat) * 256 + b3.toNat := by
  simp only [packetWord, append_toNat, Nat.reducePow]

/-- A packet is made of its bytes (R24). -/
theorem packetWord_extracts (p : Word) :
    packetWord (p.extractLsb' 24 8) (p.extractLsb' 16 8) (p.extractLsb' 8 8) (p.extractLsb' 0 8) = p := by
  refine BitVec.eq_of_toNat_eq ?_
  simp only [packetWord_toNat, BitVec.extractLsb'_toNat, Nat.shiftRight_eq_div_pow]
  omega

/-- The bytes of a packet made of four. -/
theorem extracts_packetWord (b0 b1 b2 b3 : Byte) :
    (packetWord b0 b1 b2 b3).extractLsb' 24 8 = b0 ∧ (packetWord b0 b1 b2 b3).extractLsb' 16 8 = b1 ∧
    (packetWord b0 b1 b2 b3).extractLsb' 8 8 = b2 ∧ (packetWord b0 b1 b2 b3).extractLsb' 0 8 = b3 := by
  have h1 := b1.isLt
  have h2 := b2.isLt
  have h3 := b3.isLt
  refine ⟨?_, ?_, ?_, ?_⟩ <;> refine BitVec.eq_of_toNat_eq ?_ <;>
    rw [BitVec.extractLsb'_toNat, packetWord_toNat, Nat.shiftRight_eq_div_pow] <;> omega

@[simp] theorem bitrev8_bitrev8 (b : Byte) : bitrev8 (bitrev8 b) = b := by
  revert b
  decide

/-- The trailer of a packet matches its payload (R183). -/
def TrailerMatches (p : Word) : Prop :=
  (crc16 [p.extractLsb' 24 8, p.extractLsb' 16 8]).extractLsb' 8 8 = bitrev8 (p.extractLsb' 8 8) ∧
  (crc16 [p.extractLsb' 24 8, p.extractLsb' 16 8]).extractLsb' 0 8 = bitrev8 (p.extractLsb' 0 8)

theorem crcMatches_iff (p : Word) :
    crcMatches (p.extractLsb' 24 8) (p.extractLsb' 16 8) (p.extractLsb' 8 8) (p.extractLsb' 0 8) = true ↔
      TrailerMatches p := by
  simp [crcMatches, TrailerMatches]

/-- The packet built from a payload carries the trailer that matches it (R120). -/
theorem trailerMatches_packetOf (b0 b1 : Byte) : TrailerMatches (packetOf b0 b1) := by
  obtain ⟨h0, h1, h2, h3⟩ := extracts_packetWord b0 b1 (bitrev8 ((crc16 [b0, b1]).extractLsb' 8 8))
    (bitrev8 ((crc16 [b0, b1]).extractLsb' 0 8))
  simp only [TrailerMatches, packetOf, h0, h1, h2, h3, bitrev8_bitrev8, and_self]

/-! ### The candidate of a ring -/

/-- With the thresholds apart no entry is of both classes (R180). -/
theorem classify_eq_some_iff {lo hi : Nat} (h : lo < hi) (e : Tick) (b : Bool) :
    classify lo hi e = some b ↔ (hi ≤ e.toNat ∧ b = true) ∨ (e.toNat ≤ lo ∧ b = false) := by
  unfold classify
  by_cases hhi : hi ≤ e.toNat
  · have hlo : ¬e.toNat ≤ lo := by omega
    simp [hhi, hlo, eq_comm]
  · simp [hhi, eq_comm]

/-- A list is classified when each of its entries is (R181). -/
theorem classifyAll_eq_some_iff (lo hi : Nat) (es : List Tick) (bs : List Bool) :
    classifyAll lo hi es = some bs ↔ List.Forall₂ (fun e b => classify lo hi e = some b) es bs := by
  induction es generalizing bs with
  | nil => simp [classifyAll, eq_comm]
  | cons e es ih =>
    rw [List.forall₂_cons_left_iff]
    simp only [← ih, classifyAll]
    cases classify lo hi e <;> cases classifyAll lo hi es <;> simp [eq_comm]

/-- A ring that is classified as the bits of a packet frames that packet or nothing, as its trailer has it. -/
theorem framePacket_of_classified {window all : List Tick} {q : Word}
    (hdepth : 20 ≤ splitHigh window - splitLow window)
    (hbits : classifyAll (splitLow window) (splitHigh window) all = some (msbFirst q)) (p : Word) :
    framePacket window all = some p ↔ q = p ∧ TrailerMatches q := by
  have h0 : packByte (msbFirst q) 0 = q.extractLsb' 24 8 := packByte_msbFirst q (by decide)
  have h1 : packByte (msbFirst q) 1 = q.extractLsb' 16 8 := packByte_msbFirst q (by decide)
  have h2 : packByte (msbFirst q) 2 = q.extractLsb' 8 8 := packByte_msbFirst q (by decide)
  have h3 : packByte (msbFirst q) 3 = q.extractLsb' 0 8 := packByte_msbFirst q (by decide)
  have hdeep : ¬splitHigh window - splitLow window < params.frDepthMin := Nat.not_lt.mpr hdepth
  rw [framePacket, if_neg hdeep, hbits, ← crcMatches_iff]
  simp only [h0, h1, h2, h3, packetWord_extracts, Option.ite_none_right_eq_some, Option.some_inj]
  exact and_comm

/-- The framer's four steps: a packet is framed exactly from thresholds that are deep enough, a ring classified as its
bits, and a matching trailer (R179 to R183). -/
theorem framePacket_eq_some_iff {window all : List Tick} (hall : all.length = 32) (p : Word) :
    framePacket window all = some p ↔
      20 ≤ splitHigh window - splitLow window ∧
      classifyAll (splitLow window) (splitHigh window) all = some (msbFirst p) ∧ TrailerMatches p := by
  constructor
  · intro hframe
    by_cases hdepth : 20 ≤ splitHigh window - splitLow window
    · cases hclass : classifyAll (splitLow window) (splitHigh window) all with
      | none => simp [framePacket, hclass] at hframe
      | some bs =>
        have hbs : bs.length = 32 := by
          rw [← ((classifyAll_eq_some_iff _ _ _ _).mp hclass).length_eq, hall]
        obtain ⟨q, rfl⟩ := exists_msbFirst_eq hbs
        obtain ⟨rfl, htrailer⟩ := (framePacket_of_classified hdepth hclass p).mp hframe
        exact ⟨hdepth, rfl, htrailer⟩
    · simp [framePacket, Nat.lt_of_not_le hdepth] at hframe
  · rintro ⟨hdepth, hbits, htrailer⟩
    exact (framePacket_of_classified hdepth hbits p).mpr ⟨rfl, htrailer⟩

/-- A ring classified as the bits of a packet, entry by entry. -/
theorem classifyAll_eq_msbFirst_iff {lo hi : Nat} (h : lo < hi) {all : List Tick} (hall : all.length = 32) (p : Word) :
    classifyAll lo hi all = some (msbFirst p) ↔
      ∀ (k : Nat) (hk : k < all.length),
        (hi ≤ all[k].toNat ∧ p.getLsbD (31 - k) = true) ∨ (all[k].toNat ≤ lo ∧ p.getLsbD (31 - k) = false) := by
  simp only [classifyAll_eq_some_iff, List.forall₂_iff_get, List.get_eq_getElem, getElem_msbFirst,
    classify_eq_some_iff h]
  simp [hall]

/-- Settles O31: the thresholds of a ring that is deep enough are apart, so its classification speaks of each entry. -/
theorem framedPacketIsTheClassifiedRing : Obligations.FramedPacketIsTheClassifiedRing := by
  unfold Obligations.FramedPacketIsTheClassifiedRing
  intro window all p hall
  rw [framePacket_eq_some_iff hall]
  refine and_congr_right fun hdepth => ?_
  have hapart : splitLow window < splitHigh window := by omega
  rw [classifyAll_eq_msbFirst_iff hapart hall, TrailerMatches]

/-- Settles O32: the ring classifies as the packet's bits, and the packet's trailer matches its payload. -/
theorem everyPayloadFramesWhenItsPeriodsAreClear : Obligations.EveryPayloadFramesWhenItsPeriodsAreClear := by
  unfold Obligations.EveryPayloadFramesWhenItsPeriodsAreClear
  intro r b0 b1 hdepth hclear
  have hall : (oldestFirst r).length = 32 := length_oldestFirst r
  have hapart : splitLow (newest r) < splitHigh (newest r) := by omega
  refine (framePacket_eq_some_iff hall _).mpr ⟨hdepth, ?_, trailerMatches_packetOf b0 b1⟩
  refine (classifyAll_eq_msbFirst_iff hapart hall _).mpr fun k hk => ?_
  have hentry := hclear (BitVec.ofNat 5 k)
  rw [BitVec.toNat_ofNat, Nat.mod_eq_of_lt (by omega)] at hentry
  rw [getElem_oldestFirst]
  split at hentry
  · exact .inl ⟨hentry, ‹_›⟩
  · exact .inr ⟨hentry, Bool.eq_false_of_not_eq_true ‹_›⟩

/-! ### The second edge of a period -/

/-- Every operation over FULL_PERIOD makes a period of its second edge (R170, R171). -/
theorem periodIteration_of_second_edge {x : Sample} {s : State} (h : Crossing x s.rx) (he : s.seq.edgeNo = 1) :
    periodIteration x s = ({ s with rx := commitFlip (countSample (foldSample x s.rx)) },
      some (s.seq.d1 + duration s.rx.tick s.rx.lastFlip)) := by
  rw [crossing_iff_flips] at h
  rcases periodIteration_cases x s with ⟨hf, -⟩ | ⟨-, hzero, -⟩ | ⟨-, -, hp⟩
  · simp [h] at hf
  · simp [he] at hzero
  · exact hp

/-- The receiver once the second edge of a period has been committed and the period is in the ring (R158, R175). -/
def afterSecondEdge (x : Sample) (s : State) : Receiver :=
  pushPeriod (s.seq.d1 + duration s.rx.tick s.rx.lastFlip) (commitFlip (countSample (foldSample x s.rx)))

section
variable {i : Instr} {x : Sample} {s : State}

/-- What the second edge writes of the receiver: the ring and the cursor, the level and its time, and the window. -/
theorem afterSecondEdge_spec (x : Sample) (s : State) :
    (afterSecondEdge x s).ring = ringSet s.rx.ring s.rx.cur (s.seq.d1 + (s.rx.tick - s.rx.lastFlip)) ∧
    (afterSecondEdge x s).cur = s.rx.cur + 1 ∧ (afterSecondEdge x s).level = (!s.rx.level) ∧
    (afterSecondEdge x s).lastFlip = s.rx.tick ∧ (afterSecondEdge x s).tick = s.rx.tick ∧
    SampleCounted x s.rx (afterSecondEdge x s) := by
  obtain ⟨htick, hlevel, -, hring, hcur⟩ := countSample_frame (foldSample x s.rx)
  refine ⟨?_, ?_, congrArg (!·) hlevel, htick, htick, sampleCounted_countSample x s.rx⟩
  · simp [afterSecondEdge, hring, hcur, duration]
  · simp [afterSecondEdge, hcur]

/-- The framer reads the ring and the cursor alone, which the crossing itself has left as they were (R177, R180). -/
theorem framePacket_afterSecondEdge (x : Sample) (s : State) :
    framePacket (newest (afterSecondEdge x s)) (oldestFirst (afterSecondEdge x s)) =
      let r := pushPeriod (s.seq.d1 + (s.rx.tick - s.rx.lastFlip)) s.rx
      framePacket (newest r) (oldestFirst r) := by
  obtain ⟨hring, hcur, -⟩ := afterSecondEdge_spec x s
  simp only [newest, oldestFirst, hring, hcur, pushPeriod_ring, pushPeriod_cur]

/-- A valid candidate is written to `PKT` (R184). -/
theorem packetIteration_of_framed {p : Word} (h : Crossing x s.rx) (he : s.seq.edgeNo = 1)
    (hp : framePacket (newest (afterSecondEdge x s)) (oldestFirst (afterSecondEdge x s)) = some p) :
    packetIteration x s = ({ s with rx := afterSecondEdge x s, pkt := p }, some p) := by
  rw [afterSecondEdge] at hp
  simp only [packetIteration, periodIteration_of_second_edge h he, hp, afterSecondEdge]

/-- Any other candidate leaves the ring write, and the next FULL_PERIOD to come (R187). -/
theorem packetIteration_of_not_framed (h : Crossing x s.rx) (he : s.seq.edgeNo = 1)
    (hp : framePacket (newest (afterSecondEdge x s)) (oldestFirst (afterSecondEdge x s)) = none) :
    packetIteration x s = ({ s with rx := afterSecondEdge x s, seq.edgeNo := 0 }, none) := by
  rw [afterSecondEdge] at hp
  simp only [packetIteration, periodIteration_of_second_edge h he, hp, afterSecondEdge]

theorem readPacketReading_of_framed {p : Word} (h : Crossing x s.rx) (he : s.seq.edgeNo = 1)
    (hp : framePacket (newest (afterSecondEdge x s)) (oldestFirst (afterSecondEdge x s)) = some p) :
    readPacketReading x s = finish { s with rx := afterSecondEdge x s, pkt := p } := by
  simp only [readPacketReading, packetIteration_of_framed h he hp]

/-- A discarded candidate sends both loops over the framer round (R187, R206). -/
theorem edgeReading_of_not_framed (hi : i = .readPacket ∨ i = .decodeConfig) (h : Crossing x s.rx)
    (he : s.seq.edgeNo = 1)
    (hp : framePacket (newest (afterSecondEdge x s)) (oldestFirst (afterSecondEdge x s)) = none) :
    edgeReading i x s = awaitTick { s with rx := afterSecondEdge x s, seq.edgeNo := 0 } := by
  rcases hi with rfl | rfl <;>
    simp only [edgeReading, readPacketReading, decodeConfigReading, packetIteration_of_not_framed h he hp]

end

/-- Settles O35: a valid candidate ends READ_PACKET, and no wait comes after it. -/
theorem readPacketReturnsAValidCandidate : Obligations.ReadPacketReturnsAValidCandidate := by
  unfold Obligations.ReadPacketReturnsAValidCandidate
  intro s p hrun hr ha hcross hedge hframe
  have hi : RunsNextEdge .readPacket := .inr (.inr (.inl rfl))
  obtain ⟨hring, hcur, hlevel, hflip, htick, hcount⟩ := afterSecondEdge_spec s.ports.adcData s
  have hcandidate := (framePacket_afterSecondEdge s.ports.adcData s).trans hframe
  have hread : edgeReading .readPacket s.ports.adcData (takeReading s) = _ :=
    readPacketReading_of_framed hcross hedge hcandidate
  rw [exec_of_running hrun, hi.resumes_reading hr ha, hread, rxAdvance_waiting _ _ rfl]
  exact ⟨_, rfl, rfl, rfl, rfl, rfl, rfl, hring, hcur, hlevel, hflip, htick, hcount,
    ⟨rfl, rfl, rfl, rfl, rfl, rfl, rfl⟩, rfl, rfl⟩

/-- Settles O36: READ_PACKET and DECODE_CONFIG make the same of a candidate that does not frame, and go round. -/
theorem readPacketDiscardsSilently : Obligations.ReadPacketDiscardsSilently := by
  unfold Obligations.ReadPacketDiscardsSilently
  intro i s hloop hrun hr ha hcross hedge hframe
  have hi : RunsNextEdge i := .inr (.inr hloop)
  obtain ⟨hring, hcur, hlevel, hflip, htick, hcount⟩ := afterSecondEdge_spec s.ports.adcData s
  have hcandidate := (framePacket_afterSecondEdge s.ports.adcData s).trans hframe
  have hread : edgeReading i s.ports.adcData (takeReading s) = _ :=
    edgeReading_of_not_framed hloop hcross hedge hcandidate
  rw [exec_of_running hrun, hi.resumes_reading hr ha, hread]
  obtain ⟨t, he, hround, ht, hbusTrace, hbus⟩ := rxAdvance_goesRound (s := s) (edgeReading i)
    (u := { takeReading s with
      rx := afterSecondEdge s.ports.adcData s
      seq := { s.seq with rxState := .idle, edgeNo := 0 } }) htick rfl rfl
  refine ⟨t, congrArg _ he, hround, ?_⟩
  rw [ht]
  rw [ht] at hbusTrace hbus
  exact ⟨rfl, rfl, rfl, rfl, rfl, hring, hcur, hlevel, hflip, hcount, ⟨rfl, rfl, rfl, rfl, hbusTrace, hbus, rfl⟩⟩

end Sys2Proof.Machine

/-!
PROOFS. The Configuration Decoder (spec/44_config_decoder.md R200 to R207): the packets that stand for a record, and what
DECODE and DECODE_CONFIG make of them.
-/
namespace Sys2Proof.Machine

/-! ### The packets that stand for a record -/

/-- The voltage stored is the entry of the table the index names, over the integers (R202). -/
theorem voltage_of_index_le {k : BitVec 3} (h : k.toNat ≤ 4) :
    ∃ v, voltage k = some v ∧ v.toNat = 20 * [5, 9, 12, 15, 20].getD k.toNat 0 := by
  have htable (n : Nat) (hn : n ≤ 4) :
      ∃ v, params.vtable[n]? = some v ∧ v.toNat = 20 * [5, 9, 12, 15, 20].getD n 0 := by
    interval_cases n <;> exact ⟨_, rfl, rfl⟩
  exact htable k.toNat h

theorem index_le_of_voltage {k : BitVec 3} {v : BitVec 9} (h : voltage k = some v) : k.toNat ≤ 4 := by
  obtain ⟨hlt, -⟩ := List.getElem?_eq_some_iff.mp h
  exact Nat.le_of_lt_succ hlt

/-- A code of four bits is at most `I_MAX`, so 0 alone is invalid (R203). -/
theorem currentValid_iff (code : BitVec 4) : currentValid code = true ↔ code ≠ 0 := by
  simp only [currentValid, Bool.and_eq_true, decide_eq_true_eq]
  bv_omega

/-- A field of one bit is that bit. -/
theorem extractLsb'_one (p : Word) (k : Nat) : p.extractLsb' k 1 = BitVec.ofBool (p.getLsbD k) := by
  simp [BitVec.eq_of_getLsbD_eq_iff]

/-- The five checks, and the record's fields as they stand in the packet (R200 to R204). -/
theorem recordOf_eq_some_iff (p : Word) (c : CfgRecord) :
    recordOf p = some c ↔
      (p.getLsbD 31 = false ∧ voltage (pktV1 p) = some c.v1 ∧ pktI1 p ≠ 0 ∧ voltage (pktV2 p) = some c.v2 ∧
        pktI2 p ≠ 0) ∧
      c.i1 = pktI1 p ∧ c.i2 = pktI2 p ∧ c.reqPd = p.getLsbD 23 := by
  have hreserved : pktReserved p = 0 ↔ p.getLsbD 31 = false := by
    rw [pktReserved, extractLsb'_one]
    cases p.getLsbD 31 <;> decide
  have hpd : decide (pktPd p = 1) = p.getLsbD 23 := by
    rw [pktPd, extractLsb'_one]
    cases p.getLsbD 23 <;> decide
  cases c
  simp only [recordOf, hreserved, currentValid_iff, hpd]
  cases voltage (pktV1 p) with
  | none => simp
  | some v1 =>
    cases voltage (pktV2 p) with
    | none => simp
    | some v2 =>
      simp only [Option.ite_none_right_eq_some, Option.some.injEq, CfgRecord.mk.injEq]
      grind

/-- One failing check is enough to discard (R204). -/
theorem recordOf_eq_none_of_rejected {p : Word}
    (h : p.getLsbD 31 = true ∨ 4 < (pktV1 p).toNat ∨ pktI1 p = 0 ∨ 4 < (pktV2 p).toNat ∨ pktI2 p = 0) :
    recordOf p = none := by
  rw [Option.eq_none_iff_forall_ne_some]
  intro c hc
  obtain ⟨⟨hreserved, hv1, hi1, hv2, hi2⟩, -⟩ := (recordOf_eq_some_iff p c).mp hc
  have hv1 := index_le_of_voltage hv1
  have hv2 := index_le_of_voltage hv2
  rcases h with h | h | h | h | h
  · exact absurd (hreserved.symm.trans h) Bool.false_ne_true
  · omega
  · exact hi1 h
  · omega
  · exact hi2 h

/-! ### DECODE -/

theorem decodePacket_of_record {s : State} {c : CfgRecord} (h : recordOf s.pkt = some c) :
    decodePacket s = { s with cfg := c, flags.cfgValid := true } := by
  simp [decodePacket, h]

theorem decodePacket_of_discard {s : State} (h : recordOf s.pkt = none) :
    decodePacket s = { s with flags.cfgValid := false } := by
  simp [decodePacket, h]

/-- DECODE has no wait: it is accepted, decodes and returns in one step (R200). -/
theorem exec_decode {s : State} (hbusy : s.flags.busy = false) :
    exec .decode s = .next (finish (decodePacket (accept .decode s))) :=
  exec_of_accepted hbusy rfl

/-- Settles O37: the checks are those of `recordOf`, and DECODE writes the record or clears `CFG_VALID`. -/
theorem decodeWritesTheRecordOrDiscards : Obligations.DecodeWritesTheRecordOrDiscards := by
  unfold Obligations.DecodeWritesTheRecordOrDiscards
  intro s hbusy
  rw [exec_decode hbusy]
  refine ⟨fun ⟨hreserved, hle1, hi1, hle2, hi2⟩ => ?_, fun hrejected => ?_⟩
  · obtain ⟨v1, hv1, hvolts1⟩ := voltage_of_index_le hle1
    obtain ⟨v2, hv2, hvolts2⟩ := voltage_of_index_le hle2
    have hrecord : recordOf (accept .decode s).pkt =
        some ⟨v1, pktI1 s.pkt, v2, pktI2 s.pkt, s.pkt.getLsbD 23⟩ :=
      (recordOf_eq_some_iff s.pkt _).mpr ⟨⟨hreserved, hv1, hi1, hv2, hi2⟩, rfl, rfl, rfl⟩
    rw [decodePacket_of_record hrecord]
    exact ⟨_, rfl, hvolts1, rfl, hvolts2, rfl, rfl⟩
  · have hnone : recordOf (accept .decode s).pkt = none := recordOf_eq_none_of_rejected hrejected
    rw [decodePacket_of_discard hnone]
    rfl

/-! ### DECODE_CONFIG at the second edge of a period -/

section
variable {x : Sample} {s : State} {p : Word}

/-- A packet that decodes ends the operation (R206). -/
theorem decodeConfigReading_of_decoded {c : CfgRecord} (h : Crossing x s.rx) (he : s.seq.edgeNo = 1)
    (hp : framePacket (newest (afterSecondEdge x s)) (oldestFirst (afterSecondEdge x s)) = some p)
    (hc : recordOf p = some c) :
    decodeConfigReading x s = finish { s with
      rx := afterSecondEdge x s, pkt := p, cfg := c, flags.cfgValid := true } := by
  simp [decodeConfigReading, packetIteration_of_framed h he hp, decodePacket_of_record, hc]

/-- A packet that does not decode stays in `PKT`, and the next FULL_PERIOD begins (R206, R207). -/
theorem decodeConfigReading_of_rejected (h : Crossing x s.rx) (he : s.seq.edgeNo = 1)
    (hp : framePacket (newest (afterSecondEdge x s)) (oldestFirst (afterSecondEdge x s)) = some p)
    (hc : recordOf p = none) :
    decodeConfigReading x s = beginPeriod { s with
      rx := afterSecondEdge x s, pkt := p, flags.cfgValid := false } := by
  simp [decodeConfigReading, packetIteration_of_framed h he hp, decodePacket_of_discard, hc]

end

/-- Settles O38: a packet that decodes ends DECODE_CONFIG, and no wait comes after it. -/
theorem decodeConfigReturnsTheRecord : Obligations.DecodeConfigReturnsTheRecord := by
  unfold Obligations.DecodeConfigReturnsTheRecord
  intro s p c hrun hr ha hcross hedge hframe hrecord
  have hi : RunsNextEdge .decodeConfig := .inr (.inr (.inr rfl))
  obtain ⟨hring, hcur, hlevel, hflip, htick, hcount⟩ := afterSecondEdge_spec s.ports.adcData s
  have hcandidate := (framePacket_afterSecondEdge s.ports.adcData s).trans hframe
  have hread : edgeReading .decodeConfig s.ports.adcData (takeReading s) = _ :=
    decodeConfigReading_of_decoded hcross hedge hcandidate hrecord
  rw [exec_of_running hrun, hi.resumes_reading hr ha, hread, rxAdvance_waiting _ _ rfl]
  exact ⟨_, rfl, rfl, rfl, rfl, rfl, rfl, hring, hcur, hlevel, hflip, htick, hcount,
    ⟨rfl, rfl, rfl, rfl, rfl, rfl, rfl⟩, rfl, rfl⟩

/-- Settles O39: a packet that does not decode sends DECODE_CONFIG round, to its next FULL_PERIOD. -/
theorem decodeConfigAsksForAnotherPacket : Obligations.DecodeConfigAsksForAnotherPacket := by
  unfold Obligations.DecodeConfigAsksForAnotherPacket
  intro s p hrun hr ha hcross hedge hframe hrecord
  have hi : RunsNextEdge .decodeConfig := .inr (.inr (.inr rfl))
  obtain ⟨hring, hcur, hlevel, hflip, htick, hcount⟩ := afterSecondEdge_spec s.ports.adcData s
  have hcandidate := (framePacket_afterSecondEdge s.ports.adcData s).trans hframe
  have hread : edgeReading .decodeConfig s.ports.adcData (takeReading s) = _ :=
    decodeConfigReading_of_rejected hcross hedge hcandidate hrecord
  rw [exec_of_running hrun, hi.resumes_reading hr ha, hread, beginPeriod]
  obtain ⟨t, he, hround, ht, hbusTrace, hbus⟩ := rxAdvance_goesRound (s := s) (edgeReading .decodeConfig)
    (u := { takeReading s with
      rx := afterSecondEdge s.ports.adcData s
      pkt := p
      flags := { s.flags with cfgValid := false }
      seq := { s.seq with rxState := .idle, edgeNo := 0 } }) htick rfl rfl
  refine ⟨t, congrArg _ he, hround, ?_⟩
  rw [ht]
  rw [ht] at hbusTrace hbus
  exact ⟨rfl, rfl, rfl, rfl, rfl, hring, hcur, hlevel, hflip, hcount, ⟨rfl, rfl, rfl, rfl, hbusTrace, hbus, rfl⟩⟩

end Sys2Proof.Machine

/-!
PROOFS. The Bus Master Engine one wait at a time (spec/45_bus_engine.md R221 to R229): what a sample that ends a wait
makes the engine do, as one equation per wait and outcome, and with these the steps of BUS_XACT and REG_WRITE.
-/
namespace Sys2Proof.Machine

/-! ### The flags of a sample -/

theorem addressDone_iff (st : BusSample) : addressDone st = true ↔ st.wif = true ∨ st.rif = true := by
  simp [addressDone]

theorem busFault_iff (st : BusSample) : busFault st = true ↔ st.arblost = true ∨ st.buserr = true := by
  simp [busFault]

theorem busFault_eq_false_iff (st : BusSample) : busFault st = false ↔ st.arblost = false ∧ st.buserr = false := by
  simp [busFault]

/-- The index of the next byte does not wrap: there is a length above it. -/
theorem bidx_succ_toNat {k len : Byte} (h : k.toNat + 1 < len.toNat) : (k + 1).toNat = k.toNat + 1 := by
  bv_omega

/-! ### Going on from each wait -/

section
variable {o : State → Nat → Byte} {s t : State}

/-- A way on that puts a command on the port or ends is the whole step: the flags the engine waits for are down. -/
theorem busRun_of_issuesOrEnds (h : busAdvance o s = t) (ht : IssuesOrEnds s t) : busRun o s = t :=
  busRun_of h ht.busWaitOver

theorem busAdvance_addrW (hb : s.seq.bmeState = .addrW) (hd : addressDone s.ports.bus = true) :
    busAdvance o s = afterWriteAddress o s := by
  simp [busAdvance, hb, hd]

theorem busAdvance_wrByte (hb : s.seq.bmeState = .wrByte) (hd : s.ports.bus.wif = true) :
    busAdvance o s = afterWriteByte o s := by
  simp [busAdvance, hb, hd]

theorem busAdvance_addrR (hb : s.seq.bmeState = .addrR) (hd : addressDone s.ports.bus = true) :
    busAdvance o s = afterReadAddress s := by
  simp [busAdvance, hb, hd]

theorem busAdvance_rdByte (hb : s.seq.bmeState = .rdByte) (hd : s.ports.bus.rif = true) :
    busAdvance o s = afterReadByte s := by
  simp [busAdvance, hb, hd]

/-- A fault in the write address phase (R222). -/
theorem busRun_writeAddress_fault (hb : s.seq.bmeState = .addrW) (hd : addressDone s.ports.bus = true)
    (hf : busFault s.ports.bus = true) : busRun o s = finishBus false (port .pClrerr s) := by
  rw [busRun_of_issuesOrEnds (busAdvance_addrW hb hd) (afterWriteAddress_issuesOrEnds o s)]
  simp [afterWriteAddress, hf]

/-- The write loop begins with byte 0 (R223). -/
theorem busRun_writeAddress_clear (hb : s.seq.bmeState = .addrW) (hd : addressDone s.ports.bus = true)
    (hf : busFault s.ports.bus = false) : busRun o s = sendByte o 0 s := by
  rw [busRun_of_issuesOrEnds (busAdvance_addrW hb hd) (afterWriteAddress_issuesOrEnds o s)]
  simp [afterWriteAddress, hf]

/-- A byte that is not acknowledged (R224). -/
theorem busRun_writeByte_nack (hb : s.seq.bmeState = .wrByte) (hd : s.ports.bus.wif = true)
    (ha : s.ports.bus.rxack = true) : busRun o s = finishBus false (port .pStop s) := by
  rw [busRun_of_issuesOrEnds (busAdvance_wrByte hb hd) (afterWriteByte_issuesOrEnds o s)]
  simp [afterWriteByte, ha]

/-- An acknowledged byte with more to write (R223). -/
theorem busRun_writeByte_next (hb : s.seq.bmeState = .wrByte) (hd : s.ports.bus.wif = true)
    (ha : s.ports.bus.rxack = false) (hlt : s.seq.bidx.toNat + 1 < s.seq.xwlen.toNat) :
    busRun o s = port (.pWdata (o s (s.seq.bidx.toNat + 1))) { s with seq.bidx := s.seq.bidx + 1 } := by
  rw [busRun_of_issuesOrEnds (busAdvance_wrByte hb hd) (afterWriteByte_issuesOrEnds o s)]
  simp only [afterWriteByte, ha, hlt, Bool.false_eq_true, if_false, if_true, sendByte, bidx_succ_toNat hlt]
  rw [← hb]

/-- The last byte acknowledged (R225, R229). -/
theorem busRun_writeByte_last (hb : s.seq.bmeState = .wrByte) (hd : s.ports.bus.wif = true)
    (ha : s.ports.bus.rxack = false) (hlast : ¬s.seq.bidx.toNat + 1 < s.seq.xwlen.toNat) :
    busRun o s = beginRead s := by
  rw [busRun_of_issuesOrEnds (busAdvance_wrByte hb hd) (afterWriteByte_issuesOrEnds o s)]
  simp [afterWriteByte, ha, hlast]

/-- With nothing to read the transaction ends in success (R229). -/
theorem beginRead_of_nothing (h : s.seq.xrlen = 0) :
    beginRead s = finishBus true (port .pStop { s with seq.xok := true, seq.bmeState := .stop }) := by
  simp [beginRead, h, stopPhase]

/-- With bytes to read the read address phase begins (R225). -/
theorem beginRead_of_bytes (h : s.seq.xrlen ≠ 0) : beginRead s =
    port (.pAddr (addressByte s.seq.xaddr true)) { s with seq.xok := true, seq.bmeState := .addrR } := by
  rw [beginRead, if_neg h]

/-- A fault in the read address phase (R226). -/
theorem busRun_readAddress_fault (hb : s.seq.bmeState = .addrR) (hd : addressDone s.ports.bus = true)
    (hf : busFault s.ports.bus = true) : busRun o s = stopPhase (port .pClrerr { s with seq.xok := false }) := by
  have hafter : afterReadAddress s = stopPhase (port .pClrerr { s with seq.xok := false }) := by
    simp [afterReadAddress, hf]
  exact busRun_of ((busAdvance_addrR hb hd).trans hafter) (busWaitOver_of_cleared (.inl rfl))

/-- Without a fault the read loop begins (R227). -/
theorem afterReadAddress_clear (hf : busFault s.ports.bus = false) :
    afterReadAddress s = { s with seq.bmeState := .rdByte, seq.bidx := 0 } := by
  simp [afterReadAddress, hf]

/-- With no port command before its first wait the read loop looks at the same sample (R227). -/
theorem busRun_readAddress (hb : s.seq.bmeState = .addrR) (hd : addressDone s.ports.bus = true) :
    busRun o s = busAdvance o (afterReadAddress s) := by
  rw [busRun, busAdvance_addrR hb hd]

/-- A sample without `RIF` leaves the read loop at its first wait (R227). -/
theorem busRun_readAddress_waits (hb : s.seq.bmeState = .addrR) (hd : addressDone s.ports.bus = true)
    (hf : busFault s.ports.bus = false) (hrif : s.ports.bus.rif = false) :
    busRun o s = { s with seq.bmeState := .rdByte, seq.bidx := 0 } := by
  rw [busRun_readAddress hb hd, afterReadAddress_clear hf]
  exact busAdvance_waiting o hrif

/-- A byte that came in (R227). -/
theorem busRun_readByte (hb : s.seq.bmeState = .rdByte) (hd : s.ports.bus.rif = true) :
    busRun o s = afterReadByte s :=
  busRun_of_issuesOrEnds (busAdvance_rdByte hb hd) (afterReadByte_issuesOrEnds s)

/-- A captured byte with more pending (R228). -/
theorem afterReadByte_next (hlt : s.seq.bidx.toNat + 1 < s.seq.xrlen.toNat) :
    afterReadByte s = port (.pRxnext false) { s with
      rbuf := s.rbuf.write s.seq.bidx.toNat s.ports.bus.rdata, seq.bidx := s.seq.bidx + 1 } := by
  simp [afterReadByte, hlt]

/-- The last byte captured (R228, R229). -/
theorem afterReadByte_last (hlast : ¬s.seq.bidx.toNat + 1 < s.seq.xrlen.toNat) :
    afterReadByte s = finishBus s.seq.xok (port .pStop { port (.pRxnext true) { s with
      rbuf := s.rbuf.write s.seq.bidx.toNat s.ports.bus.rdata } with seq.bmeState := .stop }) := by
  simp [afterReadByte, hlast, stopPhase]

end

/-! ### One step of a bus operation -/

section
variable {i : Instr} {addr : BusAddr} {wlen rlen reg val : Byte} {s : State}

theorem exec_busXact_of_running (h : Running (.busXact addr wlen rlen) s) :
    exec (.busXact addr wlen rlen) s = .next (busRun fromWbuf s) := exec_of_running h

theorem exec_regWrite_of_running (h : Running (.regWrite addr reg val) s) :
    exec (.regWrite addr reg val) s = .next (busRun (fromOperands reg val) s) := exec_of_running h

theorem exec_bus_of_running (hi : i.isReceiver = false) (h : Running i s) : ∃ o, exec i s = .next (busRun o s) := by
  rw [exec_of_running h]
  cases i with
  | busXact addr wlen rlen => exact ⟨_, rfl⟩
  | regWrite addr reg val => exact ⟨_, rfl⟩
  | _ => cases hi

theorem beginTransaction_of_write (h : wlen ≠ 0) (s : State) : beginTransaction addr wlen rlen s =
    port (.pAddr (addressByte addr false))
      { s with seq.xaddr := addr, seq.xwlen := wlen, seq.xrlen := rlen, seq.bmeState := .addrW } := by
  dsimp only [beginTransaction]
  rw [if_neg h]

theorem beginTransaction_of_readOnly (h : rlen ≠ 0) (s : State) : beginTransaction addr 0 rlen s =
    port (.pAddr (addressByte addr true)) { s with
      seq.xaddr := addr, seq.xwlen := 0, seq.xrlen := rlen, seq.xok := true, seq.bmeState := .addrR } := by
  dsimp only [beginTransaction]
  rw [if_pos rfl, beginRead_of_bytes h]

/-- An accepted BUS_XACT that has put its address byte on the port waits for it. -/
theorem exec_busXact_of_idle {c : BusCmd} {t : State} (hbusy : s.flags.busy = false) (hlen : ¬(wlen = 0 ∧ rlen = 0))
    (hbegin : beginTransaction addr wlen rlen (accept (.busXact addr wlen rlen) s) = port c t) :
    exec (.busXact addr wlen rlen) s = .next (port c t) := by
  rw [exec_of_accepted hbusy ((wellFormed_busXact_iff addr wlen rlen).mpr hlen), begins, hbegin, resumes, busRun_port]

end

/-- Settles O41: the first statements of a transaction, by its shape. -/
theorem transactionStartsWithItsAddressByte : Obligations.TransactionStartsWithItsAddressByte := by
  unfold Obligations.TransactionStartsWithItsAddressByte
  intro s addr wlen rlen reg val hbusy
  refine ⟨fun hw => ?_, fun hw hr => ?_, ?_⟩
  · exact exec_busXact_of_idle hbusy (fun h => hw h.1) (beginTransaction_of_write hw _)
  · subst hw
    exact exec_busXact_of_idle hbusy (fun h => hr h.2) (beginTransaction_of_readOnly hr _)
  · rw [exec_of_accepted hbusy rfl, begins, beginTransaction_of_write (by decide), resumes, busRun_port]
    rfl

/-- Settles O43: both operations go on from the write address phase alike. -/
theorem writeAddressFaultFailsWithoutStop : Obligations.WriteAddressFaultFailsWithoutStop := by
  unfold Obligations.WriteAddressFaultFailsWithoutStop
  intro i s hi hrun hb hdone hfault
  obtain ⟨o, he⟩ := exec_bus_of_running hi hrun
  rw [he, busRun_writeAddress_fault hb ((addressDone_iff _).mpr hdone) ((busFault_iff _).mpr hfault)]
  rfl

/-- Settles O44: byte 0 goes out, from `WBUF` or from the command word. -/
theorem writeLoopBeginsAfterAClearAddress : Obligations.WriteLoopBeginsAfterAClearAddress := by
  unfold Obligations.WriteLoopBeginsAfterAClearAddress
  intro s addr wlen rlen reg val hb hdone harb herr
  have hclear (o : State → Nat → Byte) : busRun o s = sendByte o 0 s :=
    busRun_writeAddress_clear hb ((addressDone_iff _).mpr hdone) ((busFault_eq_false_iff _).mpr ⟨harb, herr⟩)
  refine ⟨fun hrun => ?_, fun hrun => ?_⟩
  · rw [exec_busXact_of_running hrun, hclear]
    rfl
  · rw [exec_regWrite_of_running hrun, hclear]
    rfl

/-- Settles O45: a NACK is seen before the lengths are looked at. -/
theorem nackStopsAndFails : Obligations.NackStopsAndFails := by
  unfold Obligations.NackStopsAndFails
  intro i s hi hrun hb hwif hnack
  obtain ⟨o, he⟩ := exec_bus_of_running hi hrun
  rw [he, busRun_writeByte_nack hb hwif hnack]
  rfl

/-- Settles O46: an acknowledged byte with more to write, then the last one with and without bytes to read. -/
theorem acknowledgedByteGoesOnOrEndsTheTransaction : Obligations.AcknowledgedByteGoesOnOrEndsTheTransaction := by
  unfold Obligations.AcknowledgedByteGoesOnOrEndsTheTransaction
  intro s addr wlen rlen reg val hb hwif hack
  have hlast (o : State → Nat → Byte) (h : s.seq.bidx.toNat + 1 = s.seq.xwlen.toNat) : busRun o s = beginRead s :=
    busRun_writeByte_last hb hwif hack (by omega)
  refine ⟨fun hlt => ⟨fun hrun => ?_, fun hrun => ?_⟩, fun h hread hrun => ?_,
    fun h hnone => ⟨fun hrun => ?_, fun hrun => ?_⟩⟩
  · rw [exec_busXact_of_running hrun, busRun_writeByte_next hb hwif hack hlt]
    rfl
  · rw [exec_regWrite_of_running hrun, busRun_writeByte_next hb hwif hack hlt]
    rfl
  · rw [exec_busXact_of_running hrun, hlast _ h, beginRead_of_bytes hread]
    rfl
  · rw [exec_busXact_of_running hrun, hlast _ h, beginRead_of_nothing hnone]
    rfl
  · rw [exec_regWrite_of_running hrun, hlast _ h, beginRead_of_nothing hnone]
    rfl

/-- Settles O47: the fault falls through to STOP with `XOK = 0`. -/
theorem readAddressFaultFailsWithStop : Obligations.ReadAddressFaultFailsWithStop := by
  unfold Obligations.ReadAddressFaultFailsWithStop
  intro s addr wlen rlen hrun hb hdone hfault
  have htrace : s.trace ++ [.bus .pClrerr] ++ [.bus .pStop] = s.trace ++ [.bus .pClrerr, .bus .pStop] :=
    List.append_assoc _ _ _
  rw [exec_busXact_of_running hrun,
    busRun_readAddress_fault hb ((addressDone_iff _).mpr hdone) ((busFault_iff _).mpr hfault), ← htrace]
  rfl

/-- Settles O48: the byte is captured, and the count remaining after it says which of the two answers it gets. -/
theorem readByteIsCapturedAndAnswered : Obligations.ReadByteIsCapturedAndAnswered := by
  unfold Obligations.ReadByteIsCapturedAndAnswered
  intro s addr wlen rlen hrun hb hrif hwf
  have hsame (j : Nat) (hj : j ≠ s.seq.bidx.toNat) :
      (s.rbuf.write s.seq.bidx.toNat s.ports.bus.rdata).read j = s.rbuf.read j :=
    Memory.read_write_other s.rbuf _ hj
  have hcaptured := Memory.read_write_same s.seq.bidx.toNat s.ports.bus.rdata hwf
  refine ⟨afterReadByte s, ?_, ?_⟩
  · rw [exec_busXact_of_running hrun, busRun_readByte hb hrif]
  · by_cases hlt : s.seq.bidx.toNat + 1 < s.seq.xrlen.toNat
    · rw [if_pos hlt]
      refine ⟨?_, ?_, sameOutsideBus_afterReadByte s, ?_⟩ <;> rw [afterReadByte_next hlt]
      · exact hcaptured
      · exact hsame
      · exact ⟨rfl, rfl, rfl⟩
    · rw [if_neg hlt]
      refine ⟨?_, ?_, sameOutsideBus_afterReadByte s, ?_⟩ <;> rw [afterReadByte_last hlt]
      · exact hcaptured
      · exact hsame
      · exact ⟨List.append_assoc _ _ _, rfl, rfl⟩

/-- Settles O49: the first read wait looks at the sample the address phase ended with. -/
theorem readAddressSampleCanServeTheFirstByte : Obligations.ReadAddressSampleCanServeTheFirstByte := by
  unfold Obligations.ReadAddressSampleCanServeTheFirstByte
  intro s addr wlen rlen hrun hb harb herr
  have hfault : busFault s.ports.bus = false := (busFault_eq_false_iff _).mpr ⟨harb, herr⟩
  rw [exec_busXact_of_running hrun]
  refine ⟨fun hwif hrif => ?_, fun hrif => ?_⟩
  · rw [busRun_readAddress_waits hb ((addressDone_iff _).mpr (.inl hwif)) hfault hrif]
  · rw [busRun_readAddress hb ((addressDone_iff _).mpr (.inr hrif)), afterReadAddress_clear hfault]
    set u : State := { s with seq.bmeState := .rdByte, seq.bidx := 0 }
    rw [exec_busXact_of_running (s := u) hrun, busRun_readByte (s := u) rfl hrif, busAdvance_rdByte (s := u) rfl hrif]

end Sys2Proof.Machine

/-!
PROOFS. Whole transactions of the Bus Master Engine (spec/45_bus_engine.md R230): the command word, the address sample,
then one step per sample, with what has been shown and captured so far as the thing each step keeps.
-/
namespace Sys2Proof.Machine

/-! ### The steps of a run -/

/-- `s` after the sample `x` has come in on the Bus port, with `rest` still to come. -/
def withSample (x : BusSample) (rest : List Input) (s : State) : State := { s with inbox := rest, ports.bus := x }

section
variable {s t : State} {x : BusSample} {rest : List Input}

theorem run_step (n : Nat) (h : step s = .next t) : Sys2Proof.core.run (n + 1) s = Sys2Proof.core.run n t := by
  have hcore : Sys2Proof.core.step s = .next t := h
  simp only [Host.Core.run, hcore]

/-- An idle block runs the operation whose word is presented (R100). -/
theorem step_command {i : Instr} (hbusy : s.flags.busy = false) (hrst : s.ports.rst = false)
    (hin : s.inbox = .hostWrite .reg 8 (encode i) :: rest) :
    step s = exec i { s with inbox := rest, cmd := encode i } :=
  stepRunsTheDecodedInstruction s _ rest i hbusy hrst hin (encodedInstructionDecodesToItself i)

/-- BUS_XACT in progress goes on under the sample that comes in. -/
theorem step_busSample {addr : BusAddr} {wlen rlen : Byte} (hrun : Running (.busXact addr wlen rlen) s)
    (hrst : s.ports.rst = false) (hin : s.inbox = .busSample x :: rest) :
    step s = .next (busRun fromWbuf (withSample x rest s)) :=
  (step_of_running (takeInput_cons hin) hrst hrun.2).trans (exec_busXact_of_running hrun)

/-- What every good sample short of the last carries from one step to the next holds after any list of them. -/
theorem run_samples {n : Nat} {Good : BusSample → Prop} {P : List BusSample → State → Prop}
    (hstep : ∀ {done : List BusSample} {x : BusSample} {s : State} {rest : List Input}, P done s →
      s.inbox = .busSample x :: rest → Good x → done.length + 1 < n →
      ∃ t, step s = .next t ∧ P (done ++ [x]) t ∧ t.inbox = rest)
    {done xs : List BusSample} (h : P done s) (hin : s.inbox = xs.map .busSample ++ rest) (hgood : ∀ x ∈ xs, Good x)
    (hlen : done.length + xs.length < n) :
    ∃ t, Sys2Proof.core.run xs.length s = .next t ∧ P (done ++ xs) t ∧ t.inbox = rest := by
  induction xs generalizing done s with
  | nil => exact ⟨s, rfl, by simpa using h, hin⟩
  | cons x xs ih =>
    rw [List.length_cons] at hlen
    obtain ⟨u, hu, hP, hinbox⟩ := hstep h hin (hgood x (by simp)) (by omega)
    obtain ⟨t, ht, hP', hinbox'⟩ := ih hP hinbox (fun y hy => hgood y (by simp [hy])) (by simp; omega)
    exact ⟨t, (run_step _ hu).trans ht, by simpa using hP', hinbox'⟩

end

theorem addressClear_iff (st : BusSample) :
    addressClear st = true ↔ addressDone st = true ∧ busFault st = false := by
  simp [addressClear]

theorem acknowledged_iff (st : BusSample) : acknowledged st = true ↔ st.wif = true ∧ st.rxack = false := by
  simp [acknowledged]

/-! ### The command and the address byte -/

/-- In the transaction that began at `s`, `t` waits for the address byte of the write or the read phase, the first and
only thing it has shown. -/
structure AddressSent (read : Bool) (addr : BusAddr) (wlen rlen : Byte) (s t : State) : Prop where
  running : Running (.busXact addr wlen rlen) t
  rst : t.ports.rst = false
  bmeState : t.seq.bmeState = if read then .addrR else .addrW
  xwlen : t.seq.xwlen = wlen
  xrlen : t.seq.xrlen = rlen
  xok : read = true → t.seq.xok = true
  trace : t.trace = s.trace ++ [.bus (.pAddr (addressByte addr read))]
  rbuf : t.rbuf = s.rbuf
  wbuf : t.wbuf = s.wbuf
  rx : t.rx = s.rx

section
variable {addr : BusAddr} {wlen rlen : Byte} {s : State} {rest : List Input}

/-- A transaction with bytes to write begins with the address byte of the write phase (R221). -/
theorem step_writeCommand (hbusy : s.flags.busy = false) (hrst : s.ports.rst = false) (hw : wlen ≠ 0)
    (hin : s.inbox = .hostWrite .reg 8 (encode (.busXact addr wlen rlen)) :: rest) :
    ∃ t, step s = .next t ∧ AddressSent false addr wlen rlen s t ∧ t.inbox = rest := by
  obtain ⟨hstart, -, -⟩ := transactionStartsWithItsAddressByte
    { s with inbox := rest, cmd := encode (.busXact addr wlen rlen) } addr wlen rlen 0 0 hbusy
  exact ⟨_, (step_command hbusy hrst hin).trans (hstart hw),
    ⟨⟨rfl, rfl⟩, hrst, rfl, rfl, rfl, (fun h => nomatch h), rfl, rfl, rfl, rfl⟩, rfl⟩

/-- A read-only transaction begins with the address byte of the read phase (R221). -/
theorem step_readCommand (hbusy : s.flags.busy = false) (hrst : s.ports.rst = false) (hr : rlen ≠ 0)
    (hin : s.inbox = .hostWrite .reg 8 (encode (.busXact addr 0 rlen)) :: rest) :
    ∃ t, step s = .next t ∧ AddressSent true addr 0 rlen s t ∧ t.inbox = rest := by
  obtain ⟨-, hstart, -⟩ := transactionStartsWithItsAddressByte
    { s with inbox := rest, cmd := encode (.busXact addr 0 rlen) } addr 0 rlen 0 0 hbusy
  exact ⟨_, (step_command hbusy hrst hin).trans (hstart rfl hr),
    ⟨⟨rfl, rfl⟩, hrst, rfl, rfl, rfl, (fun _ => rfl), rfl, rfl, rfl, rfl⟩, rfl⟩

end

/-! ### The write phase -/

/-- In the transaction that began at `s`, `t` waits for byte `k` of the write phase: the address and the bytes up to `k`
have been shown, and nothing else has. -/
structure SendingByte (addr : BusAddr) (wlen rlen : Byte) (s : State) (k : Nat) (t : State) : Prop where
  running : Running (.busXact addr wlen rlen) t
  rst : t.ports.rst = false
  bmeState : t.seq.bmeState = .wrByte
  bidx : t.seq.bidx.toNat = k
  xwlen : t.seq.xwlen = wlen
  xrlen : t.seq.xrlen = rlen
  trace : t.trace = s.trace ++ (writePart addr (bufferBytes s.wbuf (k + 1))).map .bus
  rbuf : t.rbuf = s.rbuf
  wbuf : t.wbuf = s.wbuf
  rx : t.rx = s.rx

/-- The transaction that began at `s` has ended in its write phase at `t`, with `n` bytes shown and `P_STOP`, and no
input is left. -/
def WriteEnded (ok : Bool) (addr : BusAddr) (n : Nat) (s t : State) : Prop :=
  t.flags.busy = false ∧ t.flags.busOk = ok ∧
  t.trace = s.trace ++ (writePart addr (bufferBytes s.wbuf n) ++ [BusCmd.pStop]).map PortOut.bus ∧
  t.rbuf = s.rbuf ∧ t.wbuf = s.wbuf ∧ t.rx = s.rx ∧ t.inbox = []

/-- One byte more in the write part is one `P_WDATA` more. -/
theorem writePart_succ (addr : BusAddr) (m : Memory) (n : Nat) :
    writePart addr (bufferBytes m (n + 2)) = writePart addr (bufferBytes m (n + 1)) ++ [.pWdata (m.read (n + 1))] := by
  simp [writePart, bufferBytes, List.range_succ]

section
variable {addr : BusAddr} {wlen rlen : Byte} {s t : State} {k : Nat} {x st : BusSample} {rest : List Input}

/-- A clear address sample is followed by byte 0 (R222, R223). -/
theorem AddressSent.step_write (h : AddressSent false addr wlen rlen s t) (hst : addressClear st = true)
    (hin : t.inbox = .busSample st :: rest) :
    ∃ u, step t = .next u ∧ SendingByte addr wlen rlen s 0 u ∧ u.inbox = rest := by
  obtain ⟨hdone, hfault⟩ := (addressClear_iff st).mp hst
  refine ⟨_, step_busSample h.running h.rst hin, ?_⟩
  rw [busRun_writeAddress_clear (s := withSample st rest t) h.bmeState hdone hfault]
  refine ⟨⟨h.running, h.rst, rfl, rfl, h.xwlen, h.xrlen, ?_, h.rbuf, h.wbuf, h.rx⟩, rfl⟩
  simp [sendByte, withSample, writePart, bufferBytes, fromWbuf, h.trace, h.wbuf]

/-- An acknowledged byte that is not the last is followed by the next (R223). -/
theorem SendingByte.step_next (h : SendingByte addr wlen rlen s k t) (hin : t.inbox = .busSample x :: rest)
    (hx : acknowledged x = true) (hlt : k + 1 < wlen.toNat) :
    ∃ u, step t = .next u ∧ SendingByte addr wlen rlen s (k + 1) u ∧ u.inbox = rest := by
  obtain ⟨hwif, hack⟩ := (acknowledged_iff x).mp hx
  have hidx : t.seq.bidx.toNat + 1 < t.seq.xwlen.toNat := by rwa [h.bidx, h.xwlen]
  refine ⟨_, step_busSample h.running h.rst hin, ?_⟩
  rw [busRun_writeByte_next (s := withSample x rest t) h.bmeState hwif hack hidx]
  refine ⟨⟨h.running, h.rst, h.bmeState, ?_, h.xwlen, h.xrlen, ?_, h.rbuf, h.wbuf, h.rx⟩, rfl⟩
  · exact (bidx_succ_toNat hidx).trans (congrArg (· + 1) h.bidx)
  · simp [writePart_succ, withSample, h.trace, h.bidx, h.wbuf, fromWbuf]

/-- `P_STOP` and the return, whatever the sequencing state, end the transaction with the bytes shown so far. -/
theorem SendingByte.writeEnded (h : SendingByte addr wlen rlen s k t) (ok : Bool) (q : Sequencing) :
    WriteEnded ok addr (k + 1) s (finishBus ok (port .pStop { t with inbox := [], ports.bus := x, seq := q })) :=
  ⟨rfl, rfl, by simp [h.trace], h.rbuf, h.wbuf, h.rx, rfl⟩

/-- The last byte acknowledged ends a write-only transaction in success (R229). -/
theorem SendingByte.step_last (h : SendingByte addr wlen 0 s k t) (hin : t.inbox = [.busSample x])
    (hx : acknowledged x = true) (hlast : k + 1 = wlen.toNat) :
    ∃ u, step t = .next u ∧ WriteEnded true addr (k + 1) s u := by
  obtain ⟨hwif, hack⟩ := (acknowledged_iff x).mp hx
  have hidx : ¬t.seq.bidx.toNat + 1 < t.seq.xwlen.toNat := by rw [h.bidx, h.xwlen]; omega
  refine ⟨_, step_busSample h.running h.rst hin, ?_⟩
  rw [busRun_writeByte_last (s := withSample x [] t) h.bmeState hwif hack hidx,
    beginRead_of_nothing (s := withSample x [] t) h.xrlen]
  exact h.writeEnded true _

/-- A NACK ends the transaction in failure (R224). -/
theorem SendingByte.step_nack (h : SendingByte addr wlen rlen s k t) (hin : t.inbox = [.busSample x])
    (hwif : x.wif = true) (hnack : x.rxack = true) : ∃ u, step t = .next u ∧ WriteEnded false addr (k + 1) s u := by
  refine ⟨_, step_busSample h.running h.rst hin, ?_⟩
  rw [busRun_writeByte_nack (s := withSample x [] t) h.bmeState hwif hnack]
  exact h.writeEnded false _

/-- The command, a clear address sample and `k` acknowledged bytes bring the transaction to byte `k`. -/
theorem run_to_write {acks : List BusSample} (hbusy : s.flags.busy = false) (hrst : s.ports.rst = false)
    (hst : addressClear st = true) (hacks : ∀ x ∈ acks, acknowledged x = true) (hlen : acks.length < wlen.toNat)
    (hin : s.inbox = .hostWrite .reg 8 (encode (.busXact addr wlen rlen)) ::
      .busSample st :: (acks.map .busSample ++ rest)) :
    ∃ t, Sys2Proof.core.run (acks.length + 2) s = .next t ∧ SendingByte addr wlen rlen s acks.length t ∧
      t.inbox = rest := by
  have hw : wlen ≠ 0 := by rintro rfl; simp at hlen
  obtain ⟨v, hv, haddress, hinbox₁⟩ := step_writeCommand hbusy hrst hw hin
  obtain ⟨u, hu, hsending, hinbox₂⟩ := haddress.step_write hst hinbox₁
  obtain ⟨t, ht, hsending', hinbox⟩ := run_samples (n := wlen.toNat) (Good := fun x => acknowledged x = true)
    (P := fun done => SendingByte addr wlen rlen s done.length) (done := [])
    (fun h hin hx hlt => by simpa using h.step_next hin hx hlt) hsending hinbox₂ hacks (by simpa using hlen)
  exact ⟨t, (run_step _ hv).trans ((run_step _ hu).trans ht), hsending', hinbox⟩

end

/-- Settles O50: all bytes but the last are acknowledged and followed by the next, the last one by `P_STOP`. -/
theorem acknowledgedWriteRunsToSuccess : Obligations.AcknowledgedWriteRunsToSuccess := by
  unfold Obligations.AcknowledgedWriteRunsToSuccess
  intro s addr wlen st acks hbusy hrst hw hst hlen hacks hin
  have hpos : wlen.toNat ≠ 0 := by bv_omega
  rcases List.eq_nil_or_concat' acks with rfl | ⟨init, last, rfl⟩
  · exact absurd hlen.symm hpos
  rw [List.length_append, List.length_singleton] at hlen
  have hin' : s.inbox = .hostWrite .reg 8 (encode (.busXact addr wlen 0)) ::
      .busSample st :: (init.map .busSample ++ [.busSample last]) := by simpa using hin
  obtain ⟨t, hrun, hsending, hinbox⟩ := run_to_write hbusy hrst hst
    (fun x hx => hacks x (by simp [hx])) (by omega) hin'
  obtain ⟨u, hstep, hended⟩ := hsending.step_last hinbox (hacks last (by simp)) hlen
  rw [hlen] at hended
  refine ⟨u, ?_, hended⟩
  rw [← hlen]
  exact (run_add (M := Sys2Proof.core) 1 hrun).trans (run_one hstep)

/-- Settles O51: the bytes before the refused one are acknowledged and followed by the next. -/
theorem nackAtAByteAbandonsTheTransaction : Obligations.NackAtAByteAbandonsTheTransaction := by
  unfold Obligations.NackAtAByteAbandonsTheTransaction
  intro s addr wlen rlen st nack acks hbusy hrst hst hlen hacks hwif hnack hin
  obtain ⟨t, hrun, hsending, hinbox⟩ := run_to_write (rest := [.busSample nack]) hbusy hrst hst hacks hlen
    (by simpa using hin)
  obtain ⟨u, hstep, hended⟩ := hsending.step_nack hinbox hwif hnack
  refine ⟨u, ?_, hended⟩
  exact (run_add (M := Sys2Proof.core) 1 hrun).trans (run_one hstep)

/-! ### The read phase -/

/-- `m'` is `m` with the bytes of the samples `xs` captured from index 0 on (R227). -/
structure Captured (m : Memory) (xs : List BusSample) (m' : Memory) : Prop where
  wf : m'.wf
  captured : ∀ (k : Nat) (hk : k < xs.length), m'.read k = xs[k].rdata
  other : ∀ k, xs.length ≤ k → m'.read k = m.read k

theorem Captured.nil {m : Memory} (h : m.wf) : Captured m [] m :=
  ⟨h, fun _ hk => absurd hk (Nat.not_lt_zero _), fun _ _ => rfl⟩

theorem Captured.snoc {m m' : Memory} {xs : List BusSample} (h : Captured m xs m') (x : BusSample) :
    Captured m (xs ++ [x]) (m'.write xs.length x.rdata) := by
  refine ⟨Memory.write_wf _ _ h.wf, fun k hk => ?_, fun k hk => ?_⟩
  · rw [List.length_append, List.length_singleton] at hk
    rcases Nat.lt_succ_iff_lt_or_eq.mp hk with hlt | rfl
    · rw [Memory.read_write_other m' _ (by omega), h.captured k hlt, List.getElem_append_left hlt]
    · rw [Memory.read_write_same _ _ h.wf, List.getElem_concat_length rfl]
  · rw [List.length_append, List.length_singleton] at hk
    rw [Memory.read_write_other m' _ (by omega), h.other k (by omega)]

/-- In the read-only transaction that began at `s`, `t` waits for the byte after those of the samples `xs`: they have
been captured and acknowledged, and nothing else has happened. -/
structure ReadingByte (addr : BusAddr) (rlen : Byte) (s : State) (xs : List BusSample) (t : State) : Prop where
  running : Running (.busXact addr 0 rlen) t
  rst : t.ports.rst = false
  bmeState : t.seq.bmeState = .rdByte
  bidx : t.seq.bidx.toNat = xs.length
  xrlen : t.seq.xrlen = rlen
  xok : t.seq.xok = true
  trace : t.trace = s.trace ++
    (BusCmd.pAddr (addressByte addr true) :: List.replicate xs.length (BusCmd.pRxnext false)).map .bus
  rbuf : Captured s.rbuf xs t.rbuf
  wbuf : t.wbuf = s.wbuf
  rx : t.rx = s.rx

section
variable {addr : BusAddr} {rlen : Byte} {s t : State} {xs : List BusSample} {x st : BusSample} {rest : List Input}

/-- A clear address sample without `RIF` is followed by the first read wait (R225, R227). -/
theorem AddressSent.step_read (h : AddressSent true addr 0 rlen s t) (hwf : s.rbuf.wf) (hst : addressClear st = true)
    (hrif : st.rif = false) (hin : t.inbox = .busSample st :: rest) :
    ∃ u, step t = .next u ∧ ReadingByte addr rlen s [] u ∧ u.inbox = rest := by
  obtain ⟨hdone, hfault⟩ := (addressClear_iff st).mp hst
  refine ⟨_, step_busSample h.running h.rst hin, ?_⟩
  rw [busRun_readAddress_waits (s := withSample st rest t) h.bmeState hdone hfault hrif]
  have hempty : Captured s.rbuf [] t.rbuf := by
    rw [h.rbuf]
    exact .nil hwf
  exact ⟨⟨h.running, h.rst, rfl, rfl, h.xrlen, h.xok rfl, h.trace, hempty, h.wbuf, h.rx⟩, rfl⟩

/-- A byte that is not the last is captured and acknowledged (R228). -/
theorem ReadingByte.step_next (h : ReadingByte addr rlen s xs t) (hin : t.inbox = .busSample x :: rest)
    (hx : x.rif = true) (hlt : xs.length + 1 < rlen.toNat) :
    ∃ u, step t = .next u ∧ ReadingByte addr rlen s (xs ++ [x]) u ∧ u.inbox = rest := by
  have hidx : t.seq.bidx.toNat + 1 < t.seq.xrlen.toNat := by rwa [h.bidx, h.xrlen]
  refine ⟨_, step_busSample h.running h.rst hin, ?_⟩
  rw [busRun_readByte (s := withSample x rest t) h.bmeState hx, afterReadByte_next (s := withSample x rest t) hidx]
  refine ⟨⟨h.running, h.rst, h.bmeState, ?_, h.xrlen, h.xok, ?_, ?_, h.wbuf, h.rx⟩, rfl⟩
  · simpa [withSample, h.bidx] using bidx_succ_toNat hidx
  · simp [withSample, h.trace, List.replicate_succ']
  · simpa [withSample, h.bidx] using h.rbuf.snoc x

/-- The last byte is captured, answered with NACK and followed by `P_STOP`, and the transaction ends in success
(R228, R229). -/
theorem ReadingByte.step_last (h : ReadingByte addr rlen s xs t) (hin : t.inbox = [.busSample x]) (hx : x.rif = true)
    (hlast : xs.length + 1 = rlen.toNat) :
    ∃ u, step t = .next u ∧ u.flags.busy = false ∧ u.flags.busOk = true ∧
      u.trace = s.trace ++ ((BusCmd.pAddr (addressByte addr true) ::
        List.replicate xs.length (BusCmd.pRxnext false)) ++ [BusCmd.pRxnext true, BusCmd.pStop]).map PortOut.bus ∧
      Captured s.rbuf (xs ++ [x]) u.rbuf ∧ u.wbuf = s.wbuf ∧ u.rx = s.rx ∧ u.inbox = [] := by
  have hidx : ¬t.seq.bidx.toNat + 1 < t.seq.xrlen.toNat := by rw [h.bidx, h.xrlen]; omega
  refine ⟨_, step_busSample h.running h.rst hin, ?_⟩
  rw [busRun_readByte (s := withSample x [] t) h.bmeState hx, afterReadByte_last (s := withSample x [] t) hidx]
  refine ⟨rfl, h.xok, ?_, ?_, h.wbuf, h.rx, rfl⟩
  · simp [withSample, h.trace]
  · simpa [withSample, h.bidx] using h.rbuf.snoc x

end

/-- Settles O52: all bytes but the last are acknowledged, the last one is not. -/
theorem readOfNBytesFillsTheBuffer : Obligations.ReadOfNBytesFillsTheBuffer := by
  unfold Obligations.ReadOfNBytesFillsTheBuffer
  intro s addr rlen st reads hbusy hrst hr hwf hst hrif hlen hreads hin
  have hpos : rlen.toNat ≠ 0 := by bv_omega
  rcases List.eq_nil_or_concat' reads with rfl | ⟨init, last, rfl⟩
  · exact absurd hlen.symm hpos
  rw [List.length_append, List.length_singleton] at hlen
  obtain ⟨t₁, hcommand, haddress, hinbox₁⟩ := step_readCommand hbusy hrst hr hin
  obtain ⟨t₂, hsample, hfirst, hinbox₂⟩ := haddress.step_read hwf hst hrif hinbox₁
  obtain ⟨t, hrun, hreading, hinbox⟩ := run_samples (n := rlen.toNat) (Good := fun x => x.rif = true)
    (P := ReadingByte addr rlen s) (done := []) (xs := init) (rest := [.busSample last])
    (fun h hin hx hlt => h.step_next hin hx hlt) hfirst (by simpa using hinbox₂)
    (fun x hx => hreads x (by simp [hx])) (by simp; omega)
  obtain ⟨u, hstep, hidle, hok, htrace, hrbuf, hframe⟩ := hreading.step_last hinbox (hreads last (by simp)) hlen
  refine ⟨u, ?_, hidle, hok, ?_, hrbuf.captured, hrbuf.other, hframe⟩
  · rw [← hlen, run_step _ hcommand, run_step _ hsample]
    exact (run_add (M := Sys2Proof.core) 1 hrun).trans (run_one hstep)
  · rwa [show rlen.toNat - 1 = init.length by omega]

end Sys2Proof.Machine

/-!
PROOFS. REG_WRITE beside BUS_XACT (spec/45_bus_engine.md R235): the two runs as a simulation, from the command on.
-/
namespace Sys2Proof.Machine

/-- Suspended in the write phase of a transaction of two bytes to write and none to read. -/
def InTwoByteWrite (q : Sequencing) : Prop :=
  q.xwlen = 2 ∧ q.xrlen = 0 ∧ (q.bmeState = .addrW ∨ q.bmeState = .wrByte)

/-- REG_WRITE at `t` and, at `u`, BUS_XACT of two bytes with `m` in `WBUF`: the states differ in `WBUF` and the command
alone, and both are at the same wait of the write phase or both have ended. -/
structure Mirrors (addr : BusAddr) (reg val : Byte) (m : Memory) (t u : State) : Prop where
  alike : ∃ c r, u = { t with wbuf := m, cmd := c, seq := { t.seq with opr := r } }
  operation :
    (Running (.regWrite addr reg val) t ∧ Running (.busXact addr 2 0) u ∧ InTwoByteWrite t.seq) ∨
    (t.seq.opr = none ∧ u.seq.opr = none)

section
variable {addr : BusAddr} {reg val : Byte} {m : Memory} {t u : State}

theorem Mirrors.withSample (x : BusSample) (rest : List Input) (h : Mirrors addr reg val m t u) :
    Mirrors addr reg val m (withSample x rest t) (withSample x rest u) := by
  obtain ⟨⟨c, r, rfl⟩, hop⟩ := h
  exact ⟨⟨c, r, rfl⟩, hop⟩

variable (hreg : m.read 0 = reg) (hval : m.read 1 = val)
include hreg hval

/-- The two operations go on alike from the address byte: fail, or send byte 0. -/
theorem Mirrors.busRun_addrW (h : Mirrors addr reg val m t u) (hrun : Running (.regWrite addr reg val) t)
    (hrun' : Running (.busXact addr 2 0) u) (hw : t.seq.xwlen = 2) (hr : t.seq.xrlen = 0)
    (hb : t.seq.bmeState = .addrW) :
    Mirrors addr reg val m (busRun (fromOperands reg val) t) (busRun fromWbuf u) := by
  subst hreg hval
  obtain ⟨⟨c, r, rfl⟩, -⟩ := h
  set u : State := { t with wbuf := m, cmd := c, seq := { t.seq with opr := r } }
  cases hd : addressDone t.ports.bus with
  | false =>
    have hwait : busWaitOver t = false := by simp [busWaitOver, hb, hd]
    rw [busRun_waiting _ hwait, busRun_waiting (s := u) _ hwait]
    exact ⟨⟨c, r, rfl⟩, .inl ⟨hrun, hrun', hw, hr, .inl hb⟩⟩
  | true =>
    cases hf : busFault t.ports.bus with
    | true =>
      rw [busRun_writeAddress_fault hb hd hf, busRun_writeAddress_fault (s := u) hb hd hf]
      exact ⟨⟨c, none, rfl⟩, .inr ⟨rfl, rfl⟩⟩
    | false =>
      rw [busRun_writeAddress_clear hb hd hf, busRun_writeAddress_clear (s := u) hb hd hf]
      exact ⟨⟨c, r, rfl⟩, .inl ⟨hrun, hrun', hw, hr, .inr rfl⟩⟩

/-- The two operations go on alike from a byte: fail, send byte 1, or succeed. -/
theorem Mirrors.busRun_wrByte (h : Mirrors addr reg val m t u) (hrun : Running (.regWrite addr reg val) t)
    (hrun' : Running (.busXact addr 2 0) u) (hw : t.seq.xwlen = 2) (hr : t.seq.xrlen = 0)
    (hb : t.seq.bmeState = .wrByte) :
    Mirrors addr reg val m (busRun (fromOperands reg val) t) (busRun fromWbuf u) := by
  subst hreg hval
  obtain ⟨⟨c, r, rfl⟩, -⟩ := h
  set u : State := { t with wbuf := m, cmd := c, seq := { t.seq with opr := r } }
  cases hd : t.ports.bus.wif with
  | false =>
    have hwait : busWaitOver t = false := by simp [busWaitOver, hb, hd]
    rw [busRun_waiting _ hwait, busRun_waiting (s := u) _ hwait]
    exact ⟨⟨c, r, rfl⟩, .inl ⟨hrun, hrun', hw, hr, .inr hb⟩⟩
  | true =>
    cases ha : t.ports.bus.rxack with
    | true =>
      rw [busRun_writeByte_nack hb hd ha, busRun_writeByte_nack (s := u) hb hd ha]
      exact ⟨⟨c, none, rfl⟩, .inr ⟨rfl, rfl⟩⟩
    | false =>
      by_cases hlt : t.seq.bidx.toNat + 1 < t.seq.xwlen.toNat
      · have hfirst : t.seq.bidx.toNat = 0 := by
          rw [hw] at hlt
          exact Nat.lt_one_iff.mp (Nat.lt_of_succ_lt_succ hlt)
        have hbyte : fromWbuf u (u.seq.bidx.toNat + 1) =
            fromOperands (m.read 0) (m.read 1) t (t.seq.bidx.toNat + 1) := by
          rw [show u.seq.bidx = t.seq.bidx from rfl, hfirst]
          rfl
        rw [busRun_writeByte_next hb hd ha hlt, busRun_writeByte_next (s := u) hb hd ha hlt, hbyte]
        exact ⟨⟨c, r, rfl⟩, .inl ⟨hrun, hrun', hw, hr, .inr hb⟩⟩
      · rw [busRun_writeByte_last hb hd ha hlt, busRun_writeByte_last (s := u) hb hd ha hlt, beginRead_of_nothing hr,
          beginRead_of_nothing (s := u) hr]
        exact ⟨⟨c, none, rfl⟩, .inr ⟨rfl, rfl⟩⟩

/-- After an input that presents no command the two blocks step alike. -/
theorem Mirrors.step_of_input {t' u' : State} (h : Mirrors addr reg val m t' u') (ht : takeInput t = (t', none))
    (hu : takeInput u = (u', none)) (hrst : t'.ports.rst = false) :
    ∃ v w, step t = .next v ∧ step u = .next w ∧ Mirrors addr reg val m v w ∧ SameOutsideBus t' v := by
  have hrst' : u'.ports.rst = false := by
    obtain ⟨⟨c, r, rfl⟩, -⟩ := h
    exact hrst
  rcases h.operation with ⟨hrun, hrun', hw, hr, hb⟩ | ⟨ho, ho'⟩
  · refine ⟨_, _, (step_of_running ht hrst hrun.2).trans (exec_regWrite_of_running hrun),
      (step_of_running hu hrst' hrun'.2).trans (exec_busXact_of_running hrun'), ?_, sameOutsideBus_busRun _ _⟩
    rcases hb with hb | hb
    · exact h.busRun_addrW hreg hval hrun hrun' hw hr hb
    · exact h.busRun_wrByte hreg hval hrun hrun' hw hr hb
  · exact ⟨_, _, step_of_idle ht hrst ho, step_of_idle hu hrst' ho', h, sameOutsideBus_refl _⟩

/-- Under samples alone the two blocks run alike, and REG_WRITE's `WBUF` stays as it was. -/
theorem Mirrors.run (n : Nat) {samples : List BusSample} (h : Mirrors addr reg val m t u) (hrst : t.ports.rst = false)
    (hin : t.inbox = samples.map .busSample) :
    ∃ v w, Sys2Proof.core.run n t = .next v ∧ Sys2Proof.core.run n u = .next w ∧ Mirrors addr reg val m v w ∧
      v.wbuf = t.wbuf := by
  induction n generalizing t u samples with
  | zero => exact ⟨t, u, rfl, rfl, h, rfl⟩
  | succ n ih =>
    have hin' : u.inbox = samples.map .busSample := by
      obtain ⟨⟨c, r, rfl⟩, -⟩ := h
      exact hin
    have hinput : ∃ (t' u' : State) (rest : List BusSample), takeInput t = (t', none) ∧
        takeInput u = (u', none) ∧ Mirrors addr reg val m t' u' ∧ t'.ports.rst = false ∧
        t'.inbox = rest.map .busSample ∧ t'.wbuf = t.wbuf := by
      cases samples with
      | nil => exact ⟨t, u, [], takeInput_nil hin, takeInput_nil hin', h, hrst, hin, rfl⟩
      | cons x rest =>
        exact ⟨_, _, rest, takeInput_cons hin, takeInput_cons hin', h.withSample x _, hrst, rfl, rfl⟩
    obtain ⟨t', u', rest, ht, hu, h', hrst', hrest, hwbuf⟩ := hinput
    obtain ⟨v, w, hv, hw, hvw, hsame⟩ := h'.step_of_input hreg hval ht hu hrst'
    obtain ⟨-, -, -, -, -, hwbuf', -, -, -, -, hrst'', hinbox, -⟩ := hsame
    obtain ⟨v', w', hv', hw', hend, hwbuf''⟩ := ih hvw (hrst''.trans hrst') (hinbox.trans hrest)
    exact ⟨v', w', (run_step n hv).trans hv', (run_step n hw).trans hw', hend, hwbuf''.trans (hwbuf'.trans hwbuf)⟩

end

/-- The two commands bring their blocks to the address byte of the same transaction. -/
theorem mirrors_of_commands {s : State} (addr : BusAddr) (reg val : Byte) (m : Memory) (rest : List Input)
    (hbusy : s.flags.busy = false) (hrst : s.ports.rst = false) :
    ∃ t u, step { s with inbox := .hostWrite .reg 8 (encode (.regWrite addr reg val)) :: rest } = .next t ∧
      step { s with wbuf := m, inbox := .hostWrite .reg 8 (encode (.busXact addr 2 0)) :: rest } = .next u ∧
      Mirrors addr reg val m t u ∧ t.ports.rst = false ∧ t.inbox = rest ∧ t.wbuf = s.wbuf := by
  obtain ⟨-, -, hregWrite⟩ := transactionStartsWithItsAddressByte
    { s with inbox := rest, cmd := encode (.regWrite addr reg val) } addr 2 0 reg val hbusy
  obtain ⟨hbusXact, -⟩ := transactionStartsWithItsAddressByte
    { s with inbox := rest, cmd := encode (.busXact addr 2 0), wbuf := m } addr 2 0 reg val hbusy
  have hstep := step_command (s := { s with
    inbox := .hostWrite .reg 8 (encode (.regWrite addr reg val)) :: rest }) hbusy hrst rfl
  have hstep' := step_command (s := { s with
    wbuf := m, inbox := .hostWrite .reg 8 (encode (.busXact addr 2 0)) :: rest }) hbusy hrst rfl
  exact ⟨_, _, hstep.trans hregWrite, hstep'.trans (hbusXact (by decide)),
    ⟨⟨_, _, rfl⟩, .inl ⟨⟨rfl, rfl⟩, ⟨rfl, rfl⟩, rfl, rfl, .inl rfl⟩⟩, hrst, rfl, rfl⟩

/-- Settles O53: the two commands bring their blocks to the same wait, and from there the runs mirror each other. -/
theorem regWriteIsATwoByteWrite : Obligations.RegWriteIsATwoByteWrite := by
  unfold Obligations.RegWriteIsATwoByteWrite
  intro s addr reg val samples n hbusy hrst hwf
  have hreg : ((s.wbuf.write 0 reg).write 1 val).read 0 = reg := by
    rw [Memory.read_write_other _ _ (by decide), Memory.read_write_same 0 reg hwf]
  have hval : ((s.wbuf.write 0 reg).write 1 val).read 1 = val :=
    Memory.read_write_same 1 val (Memory.write_wf 0 reg hwf)
  cases n with
  | zero => exact ⟨_, _, rfl, rfl, rfl, rfl, rfl, rfl, rfl, rfl, rfl⟩
  | succ n =>
    obtain ⟨t₁, u₁, ht₁, hu₁, hmirrors, hrst₁, hinbox, hwbuf₁⟩ := mirrors_of_commands addr reg val
      ((s.wbuf.write 0 reg).write 1 val) (samples.map .busSample) hbusy hrst
    obtain ⟨t, u, ht, hu, ⟨⟨c, r, rfl⟩, -⟩, hwbuf⟩ := hmirrors.run hreg hval n hrst₁ hinbox
    exact ⟨t, _, (run_step n ht₁).trans ht, (run_step n hu₁).trans hu,
      rfl, rfl, rfl, rfl, rfl, hwbuf.trans hwbuf₁, rfl⟩

end Sys2Proof.Machine

/-!
PROOFS. What no step can do (spec/60_exceptions.md): none ends in a fault or a refusal, since the block has no trap
(R260), and none of a receiver operation comes near the bus side (R264): what each statement of the receiver keeps is
`SameOutsideReceiver`, and every receiver operation is made of these.
-/
namespace Sys2Proof.Machine

/-! ### No trap -/

/-- Settles O9, along the branches of `step`: an operation answers its `runOperation`, and the other branches answer the
state in reset, the refused command and the input alone. -/
theorem everyStepAnswersANextState : Obligations.EveryStepAnswersANextState := by
  unfold Obligations.EveryStepAnswersANextState
  intro s
  unfold step
  obtain ⟨t, command⟩ := takeInput s
  dsimp only
  split
  · exact ⟨blockReset t, rfl⟩
  cases command with
  | some w =>
    dsimp only
    cases decode w with
    | ok i => exact ⟨_, exec_eq_runOperation i t⟩
    | error e => exact ⟨refuseCommand t, rfl⟩
  | none =>
    cases t.seq.opr with
    | some i => exact ⟨_, exec_eq_runOperation i t⟩
    | none => exact ⟨t, rfl⟩

/-! ### The receiver stays outside the bus engine -/

section
variable {s t u : State}

theorem sameOutsideReceiver_refl (s : State) : SameOutsideReceiver s s := ⟨rfl, rfl, rfl, rfl, rfl, rfl, rfl⟩

theorem SameOutsideReceiver.trans (h₁ : SameOutsideReceiver s t) (h₂ : SameOutsideReceiver t u) :
    SameOutsideReceiver s u := by
  obtain ⟨hwbuf, hrbuf, hcmd, hok, htrace, hbus, hin⟩ := h₂
  unfold SameOutsideReceiver
  rwa [hwbuf, hrbuf, hcmd, hok, htrace, hbus, hin]

/-- A pulse on `tov_clr` is no port command, and the Tick port is not the Bus port (R65). -/
theorem sameOutsideReceiver_consumeTick (s : State) : SameOutsideReceiver s (consumeTick s) :=
  ⟨rfl, rfl, rfl, rfl, by simp [busTrace], rfl, rfl⟩

/-- A pulse on `adc_start` is no port command (R65). -/
theorem sameOutsideReceiver_startConversion (s : State) : SameOutsideReceiver s (startConversion s) :=
  ⟨rfl, rfl, rfl, rfl, by simp [busTrace], rfl, rfl⟩

theorem sameOutsideReceiver_takeReading (s : State) : SameOutsideReceiver s (takeReading s) :=
  ⟨rfl, rfl, rfl, rfl, rfl, rfl, rfl⟩

theorem sameOutsideReceiver_periodIteration (x : Sample) (s : State) :
    SameOutsideReceiver s (periodIteration x s).1 := by
  rcases periodIteration_cases x s with ⟨-, h⟩ | ⟨-, -, h⟩ | ⟨-, -, h⟩ <;> rw [h] <;> exact sameOutsideReceiver_refl s

theorem sameOutsideReceiver_packetIteration (x : Sample) (s : State) :
    SameOutsideReceiver s (packetIteration x s).1 := by
  have hperiod := sameOutsideReceiver_periodIteration x s
  rcases packetIteration_cases x s with ⟨-, h⟩ | ⟨m, r, -, -, ⟨p, -, h⟩ | ⟨-, h⟩⟩ <;> rw [h] <;> exact hperiod

/-- DECODE moves `CFG` and `CFG_VALID` alone (R200). -/
theorem sameOutsideReceiver_decodePacket (s : State) : SameOutsideReceiver s (decodePacket s) := by
  rcases decodePacket_cases s with ⟨c, -, h⟩ | ⟨-, h⟩ <;> rw [h] <;> exact sameOutsideReceiver_refl s

/-- Whatever a loop over NEXT_EDGE makes of a reading, it then returns or waits for the next tick, and both move the
sequencing state and `BUSY` alone. -/
theorem sameOutsideReceiver_edgeReading (i : Instr) (x : Sample) (s : State) :
    SameOutsideReceiver s (edgeReading i x s) := by
  have hedge : SameOutsideReceiver s (edgeIteration x s).1 := sameOutsideReceiver_refl s
  have hperiod := sameOutsideReceiver_periodIteration x s
  have hpacket := sameOutsideReceiver_packetIteration x s
  cases i with
  | nextEdge =>
    simp only [edgeReading, nextEdgeReading]
    split <;> rename_i h <;> rw [h] at hedge <;> exact hedge
  | fullPeriod =>
    simp only [edgeReading, fullPeriodReading]
    split <;> rename_i h <;> rw [h] at hperiod <;> exact hperiod
  | readPacket =>
    simp only [edgeReading, readPacketReading]
    split <;> rename_i h <;> rw [h] at hpacket <;> exact hpacket
  | decodeConfig =>
    simp only [edgeReading, decodeConfigReading]
    split <;> rename_i t _ h <;> rw [h] at hpacket
    · exact hpacket
    · have hdecode := hpacket.trans (sameOutsideReceiver_decodePacket t)
      split <;> exact hdecode
  | _ => exact sameOutsideReceiver_refl s

end

section
variable {f : State → State} {g : Sample → State → State}
  (hf : ∀ s, SameOutsideReceiver s (f s)) (hg : ∀ x s, SameOutsideReceiver s (g x s))
include hf hg

theorem sameOutsideReceiver_rxAdvance (s : State) : SameOutsideReceiver s (rxAdvance f g s) := by
  rcases rxAdvance_cases f g s with ⟨-, h⟩ | ⟨-, -, h⟩ | ⟨-, -, h⟩ <;> rw [h]
  · exact sameOutsideReceiver_refl s
  · exact (sameOutsideReceiver_consumeTick s).trans (hf _)
  · exact (sameOutsideReceiver_takeReading s).trans (hg _ _)

theorem sameOutsideReceiver_rxRun (s : State) : SameOutsideReceiver s (rxRun f g s) :=
  (sameOutsideReceiver_rxAdvance hf hg s).trans (sameOutsideReceiver_rxAdvance hf hg _)

end

section
variable {i : Instr}

theorem RunsNextEdge.sameOutsideReceiver_resumes (hi : RunsNextEdge i) (s : State) :
    SameOutsideReceiver s (resumes i s) := by
  rw [hi.resumes_eq]
  exact sameOutsideReceiver_rxRun sameOutsideReceiver_startConversion (sameOutsideReceiver_edgeReading i) s

theorem sameOutsideReceiver_begins (hi : i.isReceiver = true) (s : State) : SameOutsideReceiver s (begins i s) := by
  cases i with
  | sample => exact sameOutsideReceiver_startConversion s
  | decode => exact sameOutsideReceiver_decodePacket s
  | busXact addr wlen rlen => cases hi
  | regWrite addr reg val => cases hi
  | _ => exact sameOutsideReceiver_refl s

theorem sameOutsideReceiver_resumes (hi : i.isReceiver = true) (s : State) :
    SameOutsideReceiver s (resumes i s) := by
  cases i with
  | waitTick =>
    exact sameOutsideReceiver_rxRun (f := finish) sameOutsideReceiver_refl (fun _ => sameOutsideReceiver_refl) s
  | sample =>
    exact sameOutsideReceiver_rxRun (g := returnSample) sameOutsideReceiver_refl (fun _ => sameOutsideReceiver_refl) s
  | nextEdge => exact RunsNextEdge.sameOutsideReceiver_resumes (.inl rfl) s
  | fullPeriod => exact RunsNextEdge.sameOutsideReceiver_resumes (.inr (.inl rfl)) s
  | readPacket => exact RunsNextEdge.sameOutsideReceiver_resumes (.inr (.inr (.inl rfl))) s
  | decode => exact sameOutsideReceiver_refl s
  | decodeConfig => exact RunsNextEdge.sameOutsideReceiver_resumes (.inr (.inr (.inr rfl))) s
  | busXact addr wlen rlen => cases hi
  | regWrite addr reg val => cases hi

end

/-- Settles O54, along everything `runOperation` can do: a receiver operation begins and goes on outside the bus side,
and accepting or refusing its command moves `BUSY`, `CMD_ERR` and `OPR`, which are not the bus engine's. -/
theorem receiverNeverTouchesTheBus : Obligations.ReceiverNeverTouchesTheBus := by
  unfold Obligations.ReceiverNeverTouchesTheBus
  intro i s t hi he
  rw [exec_eq_runOperation, Host.Outcome.next.injEq] at he
  subst he
  rcases runOperation_cases i (begins i) (resumes i) s with ⟨-, -, h⟩ | ⟨-, -, h⟩ | ⟨-, h⟩ | ⟨-, -, h⟩ <;> rw [h]
  · have haccept : SameOutsideReceiver s (accept i s) := sameOutsideReceiver_refl s
    exact haccept.trans ((sameOutsideReceiver_begins hi _).trans (sameOutsideReceiver_resumes hi _))
  · exact sameOutsideReceiver_refl s
  · exact sameOutsideReceiver_resumes hi s
  · exact sameOutsideReceiver_refl s

end Sys2Proof.Machine

/-!
PROOFS. Reset and hazards (spec/70_reset_and_hazards.md): the trailer check under a corrupted bit (R320), by the
linearity of the checksum, and what a block that waits (R301) or is held in reset (R300) does with its inputs.
-/
namespace Sys2Proof.Machine

/-! ### The checksum is linear -/

/-- The polynomial is taken out of the two registers' sum when it is out of just one of them (R185). -/
theorem crcShift_xor (x y : BitVec 16) : crcShift (x ^^^ y) = crcShift x ^^^ crcShift y := by
  unfold crcShift
  rw [BitVec.msb_xor, BitVec.shiftLeft_xor_distrib]
  cases x.msb <;> cases y.msb
  · rfl
  · exact BitVec.xor_assoc _ _ _
  · change x <<< 1 ^^^ y <<< 1 ^^^ params.crcPoly = x <<< 1 ^^^ params.crcPoly ^^^ y <<< 1
    ac_rfl
  · calc x <<< 1 ^^^ y <<< 1
      _ = x <<< 1 ^^^ y <<< 1 ^^^ (params.crcPoly ^^^ params.crcPoly) := by rw [BitVec.xor_self, BitVec.xor_zero]
      _ = x <<< 1 ^^^ params.crcPoly ^^^ (y <<< 1 ^^^ params.crcPoly) := by ac_rfl

theorem crcShifts_xor (n : Nat) (x y : BitVec 16) : crcShifts n (x ^^^ y) = crcShifts n x ^^^ crcShifts n y := by
  induction n generalizing x y with
  | zero => rfl
  | succ n ih => rw [crcShifts, crcShift_xor, ih]; rfl

theorem crcByte_xor (x y : BitVec 16) (a b : Byte) : crcByte (x ^^^ y) (a ^^^ b) = crcByte x a ^^^ crcByte y b := by
  have hbyte : (a ^^^ b) ++ (0 : Byte) = (a ++ (0 : Byte)) ^^^ (b ++ (0 : Byte)) := by
    rw [BitVec.xor_append]
    rfl
  unfold crcByte
  rw [hbyte, ← crcShifts_xor]
  ac_rfl

theorem crc16_pair_xor (a0 a1 b0 b1 : Byte) : crc16 [a0 ^^^ b0, a1 ^^^ b1] = crc16 [a0, a1] ^^^ crc16 [b0, b1] := by
  have hinit : params.crcInit = params.crcInit ^^^ params.crcInit := by decide
  simp only [crc16, List.foldl_cons, List.foldl_nil]
  rw [← crcByte_xor, ← crcByte_xor, ← hinit]

theorem bitrev8_xor (a b : Byte) : bitrev8 (a ^^^ b) = bitrev8 a ^^^ bitrev8 b := by
  simp only [bitrev8, BitVec.extractLsb'_xor, ← BitVec.xor_append]

/-- To a packet that passes the trailer check, the check sees the error alone. -/
theorem trailerMatches_xor_iff {p : Word} (h : TrailerMatches p) (e : Word) :
    TrailerMatches (p ^^^ e) ↔ TrailerMatches e := by
  obtain ⟨hhigh, hlow⟩ := h
  simp only [TrailerMatches, BitVec.extractLsb'_xor, crc16_pair_xor, bitrev8_xor, hhigh, hlow, BitVec.xor_right_inj]

/-- No single bit is an error the check lets pass (R320). -/
theorem not_trailerMatches_twoPow {k : Nat} (hk : k < 32) : ¬ TrailerMatches (BitVec.twoPow 32 k) := by
  have hall : ∀ k < 32, ¬ TrailerMatches (BitVec.twoPow 32 k) := by
    unfold TrailerMatches
    decide +kernel
  exact hall k hk

/-- Settles O33: the payload's packet passes, so by linearity its corruption passes only where the flipped bit alone
would. -/
theorem singleBitCorruptionFailsTheChecksum : Obligations.SingleBitCorruptionFailsTheChecksum := by
  unfold Obligations.SingleBitCorruptionFailsTheChecksum
  intro b0 b1 k hk p q
  have hpacket : TrailerMatches p := trailerMatches_packetOf b0 b1
  have hcorrupted : ¬ TrailerMatches q := fun h =>
    not_trailerMatches_twoPow hk ((trailerMatches_xor_iff hpacket _).mp h)
  exact ⟨(crcMatches_iff p).mpr hpacket, Bool.eq_false_iff.mpr (mt (crcMatches_iff q).mp hcorrupted)⟩

/-! ### An idle block -/

/-- Settles O10: with nothing to take and nothing in progress a step is the state itself, and reset is such a state. -/
theorem idleBlockWaitsForTheFirstCommand : Obligations.IdleBlockWaitsForTheFirstCommand := by
  unfold Obligations.IdleBlockWaitsForTheFirstCommand
  have hidle (s : State) (hopr : s.seq.opr = none) (hrst : s.ports.rst = false) (hin : s.inbox = []) :
      step s = .next s := step_of_idle (takeInput_nil hin) hrst hopr
  exact ⟨fun s _ => hidle s, hidle State.reset rfl rfl rfl⟩

/-! ### A block held in reset -/

/-- A host write reaches no port (R72). -/
theorem hostWrite_ports_trace (sp : Space) (index : Nat) (value : Word) (s : State) :
    (hostWrite sp index value s).1.ports = s.ports ∧ (hostWrite sp index value s).1.trace = s.trace := by
  unfold hostWrite
  split
  · exact ⟨rfl, rfl⟩
  · cases sp with
    | reg =>
      dsimp only
      split
      · exact ⟨rfl, rfl⟩
      · split <;> exact ⟨rfl, rfl⟩
    | wbuf => dsimp only; split <;> exact ⟨rfl, rfl⟩
    | rbuf => exact ⟨rfl, rfl⟩
    | ring => exact ⟨rfl, rfl⟩

/-- What an input can show: nothing, or the answer to a host read. -/
theorem applyInput_trace (e : Input) (s : State) :
    (applyInput e s).1.trace = s.trace ∨ ∃ v, (applyInput e s).1.trace = s.trace ++ [.hostData v] := by
  cases e with
  | hostWrite sp index value => exact .inl (hostWrite_ports_trace sp index value s).2
  | hostRead sp index => exact .inr ⟨_, rfl⟩
  | timerOverflow => exact .inl rfl
  | conversionDone data => exact .inl rfl
  | busSample st => exact .inl rfl
  | rst level => exact .inl rfl

/-- An input puts no command on the Bus port and no pulse on the others (R65, R218). -/
theorem applyInput_outputs (e : Input) (s : State) :
    busTrace (applyInput e s).1 = busTrace s ∧ (applyInput e s).1.trace.count .tovClr = s.trace.count .tovClr ∧
    (applyInput e s).1.trace.count .adcStart = s.trace.count .adcStart := by
  unfold busTrace
  rcases applyInput_trace e s with h | ⟨v, h⟩ <;> rw [h]
  · exact ⟨rfl, rfl, rfl⟩
  · simp [PortOut.busCmd?]

/-- Only its own release takes `rst` down. -/
theorem applyInput_keeps_rst {e : Input} {s : State} (hrst : s.ports.rst = true) (he : e ≠ .rst false) :
    (applyInput e s).1.ports.rst = true := by
  cases e with
  | hostWrite sp index value =>
    have hports : (applyInput (.hostWrite sp index value) s).1.ports = s.ports :=
      (hostWrite_ports_trace sp index value s).1
    rw [hports, hrst]
  | rst level =>
    cases level with
    | false => exact absurd rfl he
    | true => rfl
  | timerOverflow => exact hrst
  | conversionDone data => exact hrst
  | busSample st => exact hrst
  | hostRead sp index => exact hrst

/-- Settles O12: the input leaves `rst` asserted, so the step is `blockReset`, which shows what the input showed. -/
theorem heldResetAcceptsNothing : Obligations.HeldResetAcceptsNothing := by
  unfold Obligations.HeldResetAcceptsNothing
  intro s e rest hrst he hin
  have hheld : (takeInput s).1.ports.rst = true := by
    rw [takeInput_cons hin]
    exact applyInput_keeps_rst hrst he
  obtain ⟨hbus, htov, hadc⟩ := applyInput_outputs e { s with inbox := rest }
  rw [← takeInput_cons hin] at hbus htov hadc
  exact ⟨blockReset (takeInput s).1, step_of_reset hheld, rfl, rfl, rfl, rfl, rfl, hheld, hbus, htov, hadc⟩

end Sys2Proof.Machine
